-- ==== Sys2Proof/Word.lean ====
section
/-! DEFINITION. The two bit-vector widths of FBX: registers, offsets, command words and colours are 32 bits wide
(00_scope R7, `REG_BITS`, `PIX_BITS`), frame bytes are 8 bits wide (20_memory R62). -/

namespace Sys2Proof

/-- A 32-bit register, bus offset, command word or colour word (00_scope R7; 10_state R22). -/
abbrev Word := BitVec 32

/-- One byte of the frame store (10_state R31). -/
abbrev Byte := BitVec 8

end Sys2Proof
end

