-- ==== Sys2Proof/Config.lean ====
section
/-! DEFINITION. The parameters of FBX, 00_scope R7. The ones with a value there are plain constants; the three
that R7 calls OPEN (`MAX_SCALE`, `PAL_OFF_RESET`, `PAL_ON_RESET`) are one opaque constant, so that whatever is proved
holds for every value of them (notes/assumptions/5.md). -/

namespace Sys2Proof.Config

/-- `SRC_W`: source raster width in pixels (00_scope R7, 10_state R28). -/
def srcW : Nat := 64

/-- `SRC_H`: source raster height in pixels (00_scope R7, 10_state R28). -/
def srcH : Nat := 32

/-- `BPR`: bytes per source row, `SRC_W / 8` (00_scope R7, R8). -/
def bpr : Nat := srcW / 8

/-- `FRAME_BYTES`: size of the frame store, `BPR × SRC_H` (00_scope R7, R8). -/
def frameBytes : Nat := bpr * srcH

/-- The number of pixels of the source raster, `SRC_W × SRC_H`. -/
def rasterPixels : Nat := srcW * srcH

/-- The OPEN parameters of 00_scope R7. `MAX_SCALE` is an integer from 1 to 723; held as one less, in `Fin 723`, so that
no illegal value can be written down. -/
structure Params where
  /-- `MAX_SCALE - 1` -/
  maxScalePred : Fin 723
  /-- `PAL_OFF_RESET`: value of `COLOR_OFF` after reset. -/
  palOffReset : Word
  /-- `PAL_ON_RESET`: value of `COLOR_ON` after reset. -/
  palOnReset : Word
  deriving DecidableEq, Repr, Inhabited

/-- `MAX_SCALE`: the largest scale `EXPAND` accepts (00_scope R7; 92 D13). -/
def Params.maxScale (P : Params) : Nat := P.maxScalePred.val + 1

/-- `PIXBUF_WORDS = MAX_SCALE² × SRC_W × SRC_H`: capacity of the pixel buffer in words (00_scope R7). -/
def Params.pixbufWords (P : Params) : Nat := P.maxScale ^ 2 * (srcW * srcH)

/-- The parameters of this FBX: OPEN in 00_scope R7, so nothing is known of them (notes/assumptions/5.md). -/
opaque params : Params

end Sys2Proof.Config
end

