-- ==== Sys2Proof/Syntax.lean ====
section
/-! DEFINITION. The operations of FBX (00_scope R2; opcode_table.json, one constructor a row), the registers they name
(10_state R22) and the bus transactions that carry them (20_memory R65). -/

namespace Sys2Proof

/-- The fourteen registers of 10_state R22, in index order 0 to 13. Indices 14 and 15 hold no register (R36). -/
inductive Reg where
  | cmd | status | cause | winW | winH | srcW | srcH | scale
  | colorOff | colorOn | outW | outH | pixLen | maxScale
  deriving DecidableEq, Repr

/-- The register index `n` (10_state R22). -/
def Reg.index : Reg → Nat
  | .cmd => 0 | .status => 1 | .cause => 2 | .winW => 3 | .winH => 4 | .srcW => 5 | .srcH => 6 | .scale => 7
  | .colorOff => 8 | .colorOn => 9 | .outW => 10 | .outH => 11 | .pixLen => 12 | .maxScale => 13

/-- The operations of FBX: the three commands, the reserved command words taken as one operation (42 R171), and the five
bus access operations (20_memory R66 to R70). -/
inductive Instr where
  /-- `CALCSCALE` (40 R121). -/
  | calcscale
  /-- `EXPAND` (41 R140). -/
  | expand
  /-- `CLRERR` (42 R170). -/
  | clrerr
  /-- A write of the reserved command word `w` to `CMD` (42 R171); well formed when `w` is not 1, 2 or 3. -/
  | cmdwordReserved (w : Word)
  /-- `RDREG n` (20_memory R66). -/
  | rdreg (n : Reg)
  /-- `WRREG n, v` (20_memory R67); with `n = CMD` it runs the command that `v` encodes. -/
  | wrreg (n : Reg) (v : Word)
  /-- `RDFRAME i` (20_memory R68). -/
  | rdframe (i : Byte)
  /-- `WRFRAME i, b` (20_memory R69). -/
  | wrframe (i : Byte) (b : Byte)
  /-- `RDPIX k` (20_memory R70); well formed when `k < PIXBUF_WORDS`. -/
  | rdpix (k : Nat)
  deriving DecidableEq, Repr

/-- The direction of a bus transaction (20_memory R65). -/
inductive Dir where
  | read | write
  deriving DecidableEq, Repr

/-- The size of a bus transaction: 1, 2 or 4 bytes (20_memory R65). -/
inductive Size where
  | one | two | four
  deriving DecidableEq, Repr

/-- The number of bytes of a size. -/
def Size.bytes : Size → Nat
  | .one => 1 | .two => 2 | .four => 4

/-- A host bus transaction `(dir, size, a, wdata)` (20_memory R65). `wdata` is there for writes only and has `8 × size`
bits: of the 32 held here only the low `8 × size` are looked at (notes/assumptions/14.md). -/
structure Transaction where
  dir : Dir
  size : Size
  a : Word
  wdata : Word
  deriving DecidableEq, Repr

/-- The reason of an access fault (60_exceptions R190), in the order 20_memory R65 tests them. On the bus all five look
the same (`error`); the reason is the model's and the vectors' name for it. -/
inductive AccessFault where
  /-- The offset lies in a reserved range of 20_memory R64. -/
  | unmapped
  /-- The size is not 4 in REG or PIXBUF, or not 1 in FRAME. -/
  | badSize
  /-- A 4-byte access whose offset is not a multiple of 4. -/
  | misaligned
  /-- A write to a read-only register or to PIXBUF. -/
  | readOnly
  /-- A read of a PIXBUF word at or beyond `PIX_LEN`. -/
  | pixRange
  deriving DecidableEq, Repr

end Sys2Proof
end

