-- ==== Sys2Proof/WellFormed.lean ====
section
/-! DEFINITION. Which instructions and transactions the spec's encodings admit (30_encoding R91, R94, R95;
opcode_table.json). -/

namespace Sys2Proof

/-- Whether an instruction is one that FBX with the parameters `P` has: a reserved command word is none of the three
commands' (30_encoding R95), and a pixel index lies below `PIXBUF_WORDS` (20_memory R63, R70). The operands of the other
operations are legal by their types. -/
def Instr.wellFormedAt (P : Config.Params) : Instr → Bool
  | .calcscale => true
  | .expand => true
  | .clrerr => true
  | .cmdwordReserved w => w != 1#32 && w != 2#32 && w != 3#32
  | .rdreg _ => true
  | .wrreg _ _ => true
  | .rdframe _ => true
  | .wrframe _ _ => true
  | .rdpix k => decide (k < P.pixbufWords)

/-- Well-formedness for this FBX. -/
def Instr.wellFormed (i : Instr) : Bool := i.wellFormedAt Config.params

/-- Whether a transaction holds no bits beyond the tuple of 20_memory R65: a read carries no write data, and a write
carries `8 × size` bits of it. -/
def Transaction.wellFormed (t : Transaction) : Bool :=
  match t.dir with
  | .read => t.wdata == 0#32
  | .write => decide (t.wdata.toNat < 2 ^ (8 * t.size.bytes))

end Sys2Proof
end

