-- ==== Sys2Proof/Decode.lean ====
section
/-! DEFINITION. The decoder of bus transactions (20_memory R64, R65), of command words (30_encoding R92, R93), and the
encoder (30_encoding R91, R94). Decoding is total: every transaction gives an operation or the reason it is refused. -/

namespace Sys2Proof

/-! ## Registers by index -/

/-- The register with index `n`; indices 14 and 15 hold none (10_state R22, R36). -/
def Reg.ofIndex : Nat → Option Reg
  | 0 => some .cmd
  | 1 => some .status
  | 2 => some .cause
  | 3 => some .winW
  | 4 => some .winH
  | 5 => some .srcW
  | 6 => some .srcH
  | 7 => some .scale
  | 8 => some .colorOff
  | 9 => some .colorOn
  | 10 => some .outW
  | 11 => some .outH
  | 12 => some .pixLen
  | 13 => some .maxScale
  | _ => none

/-! ## The flat map -/

/-- The rows of 20_memory R64: the three address spaces and what holds nothing. -/
inductive Region where
  | reg | frame | pixbuf | reserved
  deriving DecidableEq, Repr

/-- The first offset of FRAME (20_memory R64). -/
def frameBase : Nat := 0x100

/-- The first offset of PIXBUF (20_memory R64). -/
def pixbufBase : Nat := 0x100000

/-- Whether PIXBUF has a word `k`: `k < PIXBUF_WORDS` (20_memory R63). The words of scale 1 are asked about first: they
are there whatever `MAX_SCALE` is, so that for them the answer can be computed without knowing the parameter. -/
def hasPixelWord (P : Config.Params) (k : Nat) : Bool :=
  decide (k < Config.rasterPixels) || decide (k < P.pixbufWords)

/-- The region of an offset (20_memory R64). -/
def regionOf (P : Config.Params) (a : Word) : Region :=
  let o := a.toNat
  if o < 0x38 then .reg
  else if o < frameBase then .reserved
  else if o < 0x200 then .frame
  else if o < pixbufBase then .reserved
  else if hasPixelWord P ((o - pixbufBase) / 4) then .pixbuf
  else .reserved

/-- The one access size of a region (20_memory R61 to R65). -/
def Region.accessSize : Region → Size
  | .reg => .four
  | .frame => .one
  | .pixbuf => .four
  | .reserved => .four

/-! ## Command words -/

/-- What a command word selects (30_encoding R93, R94, R95). -/
inductive Command where
  | calcscale | expand | clrerr
  /-- A reserved word. -/
  | illegal (w : Word)
  deriving DecidableEq, Repr

/-- The field `OP`, bits 7:0 of a command word (30_encoding R92). -/
def commandOp (w : Word) : Byte := w.extractLsb' 0 8

/-- The field `RSV`, bits 31:8 of a command word (30_encoding R92). -/
def commandRsv (w : Word) : BitVec 24 := w.extractLsb' 8 24

/-- Command decode (30_encoding R93). -/
def commandOf (w : Word) : Command :=
  if commandRsv w ≠ 0#24 then .illegal w
  else if commandOp w = 0x01#8 then .calcscale
  else if commandOp w = 0x02#8 then .expand
  else if commandOp w = 0x03#8 then .clrerr
  else .illegal w

/-- The instruction a command stands for. -/
def Command.instr : Command → Instr
  | .calcscale => .calcscale
  | .expand => .expand
  | .clrerr => .clrerr
  | .illegal w => .cmdwordReserved w

/-! ## Transactions -/

/-- What a transaction decodes to: an operation, or the reason it is refused (20_memory R65). -/
inductive Decoded where
  | ok (i : Instr)
  | refused (r : AccessFault)
  deriving DecidableEq, Repr

/-- A 4-byte write to the register `n`: to `CMD` it is the command that the data word encodes (30_encoding R90, R93). -/
def decodeRegisterWrite (n : Reg) (w : Word) : Instr :=
  match n with
  | .cmd => (commandOf w).instr
  | _ => .wrreg n w

/-- An accepted access to REG. -/
def decodeRegister (t : Transaction) : Decoded :=
  match Reg.ofIndex (t.a.toNat / 4) with
  | none => .refused .unmapped
  | some n =>
    match t.dir with
    | .read => .ok (.rdreg n)
    | .write => .ok (decodeRegisterWrite n t.wdata)

/-- An accepted access to FRAME: `i = a[7:0]`, `b = wdata[7:0]` (30_encoding R91, R96). -/
def decodeFrame (t : Transaction) : Decoded :=
  match t.dir with
  | .read => .ok (.rdframe (t.a.extractLsb' 0 8))
  | .write => .ok (.wrframe (t.a.extractLsb' 0 8) (t.wdata.extractLsb' 0 8))

/-- An accepted access to PIXBUF, which the host may only read (20_memory R65). -/
def decodePixel (t : Transaction) : Decoded :=
  match t.dir with
  | .read => .ok (.rdpix ((t.a.toNat - pixbufBase) / 4))
  | .write => .refused .readOnly

/-- The decoder of 20_memory R65: region, size and alignment are tested in this order, then the region's own rows. -/
def decodeAt (P : Config.Params) (t : Transaction) : Decoded :=
  let region := regionOf P t.a
  if region = .reserved then .refused .unmapped
  else if t.size ≠ region.accessSize then .refused .badSize
  else if t.size = .four ∧ t.a.toNat % 4 ≠ 0 then .refused .misaligned
  else
    match region with
    | .reg => decodeRegister t
    | .frame => decodeFrame t
    | .pixbuf => decodePixel t
    | .reserved => .refused .unmapped

/-- The decoder of this FBX. -/
def decode (t : Transaction) : Decoded := decodeAt Config.params t

/-! ## The encoder -/

/-- The bus write that carries a command word: 4 bytes to offset 0 (30_encoding R90). -/
def commandWrite (w : Word) : Transaction := ⟨.write, .four, 0#32, w⟩

/-- The byte offset of a register in the flat map, `4 × n` (10_state R22). -/
def Reg.offset (n : Reg) : Word := BitVec.ofNat 32 (4 * n.index)

/-- The byte offset of frame byte `i`, `0x100 + i` (20_memory R64). -/
def frameOffset (i : Byte) : Word := BitVec.ofNat 32 (frameBase + i.toNat)

/-- The byte offset of pixel word `k`, `0x0010_0000 + 4 × k` (20_memory R64). -/
def pixelOffset (k : Nat) : Word := BitVec.ofNat 32 (pixbufBase + 4 * k)

/-- The transaction that asks for an operation (30_encoding R91, R94). -/
def encode : Instr → Transaction
  | .calcscale => commandWrite 0x00000001#32
  | .expand => commandWrite 0x00000002#32
  | .clrerr => commandWrite 0x00000003#32
  | .cmdwordReserved w => commandWrite w
  | .rdreg n => ⟨.read, .four, n.offset, 0#32⟩
  | .wrreg n v => ⟨.write, .four, n.offset, v⟩
  | .rdframe i => ⟨.read, .one, frameOffset i, 0#32⟩
  | .wrframe i b => ⟨.write, .one, frameOffset i, b.setWidth 32⟩
  | .rdpix k => ⟨.read, .four, pixelOffset k, 0#32⟩

/-- The name an operation is decoded under: `WRREG CMD, v` and the command that `v` encodes are the same transaction
(30_encoding R90), and the decoder answers with the command (notes/assumptions/7.md). -/
def Instr.canonical : Instr → Instr
  | .calcscale => .calcscale
  | .expand => .expand
  | .clrerr => .clrerr
  | .cmdwordReserved w => .cmdwordReserved w
  | .rdreg n => .rdreg n
  | .wrreg n v => decodeRegisterWrite n v
  | .rdframe i => .rdframe i
  | .wrframe i b => .wrframe i b
  | .rdpix k => .rdpix k

/-! ## Words of the opcode table -/

/-- The transaction that an opcode-table word stands for when nothing but the word is given. The table gives a row a
command word (format CMDW) or a bus offset (format BUS) and leaves direction, size and write data out of the pattern, so
that one word fits several rows. Read here, in this order: the three command words as commands; an aligned offset of a
register, the offset of a frame byte or an aligned offset of a pixel word as a read of it; every other word as a reserved
command word (notes/assumptions/6.md). -/
def tableTransaction (w : Nat) : Transaction :=
  let a := BitVec.ofNat 32 w
  if a = 1#32 ∨ a = 2#32 ∨ a = 3#32 then commandWrite a
  else
    match regionOf Config.params a with
    | .reg => if a.toNat % 4 = 0 then ⟨.read, .four, a, 0#32⟩ else commandWrite a
    | .frame => ⟨.read, .one, a, 0#32⟩
    | .pixbuf => if a.toNat % 4 = 0 then ⟨.read, .four, a, 0#32⟩ else commandWrite a
    | .reserved => commandWrite a

/-- The instruction the decoder reads from an opcode-table word. Every row of the table has 32 bits, so `nbits` chooses
nothing. -/
def decodeTableWord (_nbits w : Nat) : Option Instr :=
  match decode (tableTransaction w) with
  | .ok i => some i
  | .refused _ => none

end Sys2Proof
end

