-- ==== Sys2Proof/Machine/State.lean ====
section
/-! DEFINITION. The state of FBX (10_state R20), what the host has still to send, the last bus response, the reasons a
step can stop, and the state after reset (10_state R43). -/

namespace Sys2Proof.Machine

/-- Memory: the frame store, address space FRAME (10_state R31): the bytes the host has written since reset, by index, strictly
rising. A listed byte is one whose written-mark is true; an unlisted one has no value (notes/assumptions/4.md). -/
abbrev Memory := List Host.Cell

/-- The bus response of a transaction (20_memory R65). -/
inductive Response where
  /-- `ok` of a write. -/
  | ok
  /-- `ok(rdata)` of a 1-byte read. -/
  | okByte (b : Byte)
  /-- `ok(rdata)` of a 4-byte read. -/
  | okWord (w : Word)
  /-- `error`: an access fault (60_exceptions R190), with the reason the model knows it by. -/
  | error (r : AccessFault)
  deriving DecidableEq, Repr

/-- One element of a run (00_scope R14): a host operation or a reset event. -/
inductive HostEvent where
  /-- The reset input (70_reset R210). -/
  | reset
  /-- A bus transaction (20_memory R65). -/
  | bus (t : Transaction)
  deriving DecidableEq, Repr

/-- The complete state of FBX (10_state R20), with two fields of the model's own: the rest of the run and the last
response. `CMD` is no storage element; `SRC_W`, `SRC_H` and `MAX_SCALE` are constants. -/
structure State where
  /-- `STATUS`: bit 0 `ERR`, bits 31:1 reserved (10_state R24). -/
  status : Word
  /-- `CAUSE`: bits 7:0 `CODE`, bits 31:8 reserved (10_state R25). -/
  cause : Word
  /-- `WIN_W` (10_state R26). -/
  winW : Word
  /-- `WIN_H` (10_state R27). -/
  winH : Word
  /-- `SCALE` (10_state R30). -/
  scale : Word
  /-- `COLOR_OFF` (10_state R29). -/
  colorOff : Word
  /-- `COLOR_ON` (10_state R29). -/
  colorOn : Word
  /-- `OUT_W` (10_state R34). -/
  outW : Word
  /-- `OUT_H` (10_state R34). -/
  outH : Word
  /-- `PIX_LEN` (10_state R34). -/
  pixLen : Word
  /-- The frame store with its written-marks (10_state R31). -/
  frame : Memory
  /-- The words `0 .. PIX_LEN - 1` of the pixel buffer (10_state R32). -/
  pixbuf : List Word
  /-- The model's own: the host operations and reset events still to be applied, in order (notes/assumptions/1.md). -/
  pending : List HostEvent
  /-- The model's own: the bus response of the last transaction (notes/assumptions/2.md). -/
  response : Option Response
  deriving DecidableEq, Repr

/-- Why a step stops with a fault. -/
inductive Fault where
  /-- Raised by `RDFRAME` of a byte, and by `EXPAND` while some byte is one, that nothing has written since reset: the model
  fault of 60_exceptions R184 (93 U2, U7). Safe: the hardware makes no check and goes on with unspecified values, the model
  claims nothing of what follows. -/
  | unwrittenFrame
  deriving DecidableEq, Repr

/-- Why a step has no meaning. -/
inductive Refusal where
  /-- An instruction without a meaning, by its mnemonic in the opcode table. No arm of this model answers with it. Safe. -/
  | notModelled (mnemonic : String)
  deriving DecidableEq, Repr

/-- The outcome of one step of FBX. -/
abbrev Result := Host.Outcome State Fault Refusal

/-- The state after reset of an FBX with the parameters `P` (10_state R43). -/
def State.resetAt (P : Config.Params) : State where
  status := 0#32
  cause := 0#32
  winW := 0#32
  winH := 0#32
  scale := 0#32
  colorOff := P.palOffReset
  colorOn := P.palOnReset
  outW := 0#32
  outH := 0#32
  pixLen := 0#32
  frame := []
  pixbuf := []
  pending := []
  response := none

/-- The state after reset (10_state R43; 70_reset R210). -/
def State.reset : State := State.resetAt Config.params

end Sys2Proof.Machine
end

