-- ==== Sys2Proof/Machine/Flags.lean ====
section
/-! DEFINITION. The one flag of FBX, `STATUS.ERR` (10_state R24, R42), and the cause codes (60_exceptions R181). -/

namespace Sys2Proof.Machine

/-- The command faults, 60_exceptions R181. -/
inductive CommandFault where
  | invalidDimensions | scaleZero | scaleTooLarge | illegalCommand
  deriving DecidableEq, Repr

/-- The value `CAUSE` takes for a command fault (60_exceptions R181). -/
def CommandFault.code : CommandFault → Word
  | .invalidDimensions => 1#32
  | .scaleZero => 2#32
  | .scaleTooLarge => 3#32
  | .illegalCommand => 4#32

/-- `STATUS.ERR <- 1`: bit 0 set, the reserved bits as they were (10_state R24). -/
def setErr (status : Word) : Word := status ||| 1#32

/-- `STATUS.ERR <- 0`: bit 0 cleared, the reserved bits as they were (10_state R24). -/
def clearErr (status : Word) : Word := status &&& ~~~1#32

/-- The field `STATUS.ERR` (10_state R24). -/
def State.err (s : State) : Bool := s.status.getLsbD 0

/-- The field `CAUSE.CODE`, bits 7:0 (10_state R25). -/
def State.causeCode (s : State) : Byte := s.cause.extractLsb' 0 8

end Sys2Proof.Machine
end

