-- ==== Sys2Proof/Machine/Ops.lean ====
section
/-! DEFINITION. The shared operations of the machine: the frame store, the register file, bus responses, the two ways
of taking a fault (60_exceptions R186, R190), the return from one (R193), and a reset event (70_reset R210). -/

namespace Sys2Proof.Machine

/-! ## The frame store -/

/-- What an unlisted byte of the frame store reads as: nothing, since its contents are unspecified until it is written
(10_state R31, R43; notes/assumptions/4.md). -/
def Memory.unlisted : Option Byte := none

/-- `MemRead(FRAME, i, 1)` (00_scope R11): the byte at index `i`, if it has been written since reset. -/
def Memory.read : Memory → Nat → Option Byte
  | [], _ => Memory.unlisted
  | (j, b) :: m, i => if i = j then some b else Memory.read m i

/-- `MemWrite(FRAME, i, 1, b)` with the written-mark of byte `i` set (00_scope R11; 20_memory R69). -/
def Memory.write : Memory → Nat → Byte → Memory
  | [], i, b => [(i, b)]
  | (j, c) :: m, i, b =>
    if i < j then (i, b) :: (j, c) :: m
    else if i = j then (i, b) :: m
    else (j, c) :: Memory.write m i b

/-- Whether every index listed lies at or above `lo`, below `FRAME_BYTES`, and the indices rise strictly. -/
def Memory.risingFrom : Nat → Memory → Bool
  | _, [] => true
  | lo, (j, _) :: m => decide (lo ≤ j) && decide (j < Config.frameBytes) && Memory.risingFrom (j + 1) m

/-- The canonical form of the frame store: strictly rising indices, all of them positions of FRAME (20_memory R62). No
listed byte equals what an unlisted one reads as, since that is no value. -/
def Memory.wf (m : Memory) : Bool := Memory.risingFrom 0 m

/-- The written-mark of byte `i` (10_state R31). -/
def Memory.marked (m : Memory) (i : Nat) : Bool := (m.read i).isSome

/-- Whether all `FRAME_BYTES` written-marks are true: the precondition of `EXPAND` (41 R140; 60_exceptions R184). -/
def Memory.whole (m : Memory) : Bool := (List.range Config.frameBytes).all m.marked

/-! ## Responses -/

/-- The bus response of the transaction being carried out (20_memory R65). -/
def State.respond (s : State) (r : Response) : State := { s with response := some r }

/-! ## Faults -/

/-- An access fault is taken: the block answers `error` and nothing else changes (60_exceptions R190). The run goes on
(notes/assumptions/3.md). -/
def refuseAccess (r : AccessFault) (s : State) : State := s.respond (.error r)

/-- A command fault is taken (60_exceptions R186): `STATUS.ERR <- 1`, `CAUSE <- code`, nothing else is written, and the
write of `CMD` is answered `ok`. -/
def raiseCommandFault (c : CommandFault) (s : State) : State :=
  { s with status := setErr s.status, cause := c.code, response := some .ok }

/-- The return from a command fault (60_exceptions R193; 42 R170): `STATUS.ERR <- 0`, `CAUSE <- 0`. -/
def clearCommandFault (s : State) : State :=
  { s with status := clearErr s.status, cause := 0#32, response := some .ok }

/-! ## The register file -/

/-- `REG[n]` on the right-hand side: what a read of register `n` returns (20_memory R66; 10_state R22). -/
def readRegister (P : Config.Params) (n : Reg) (s : State) : Word :=
  match n with
  | .cmd => 0#32
  | .status => s.status
  | .cause => s.cause
  | .winW => s.winW
  | .winH => s.winH
  | .srcW => BitVec.ofNat 32 Config.srcW
  | .srcH => BitVec.ofNat 32 Config.srcH
  | .scale => s.scale
  | .colorOff => s.colorOff
  | .colorOn => s.colorOn
  | .outW => s.outW
  | .outH => s.outH
  | .pixLen => s.pixLen
  | .maxScale => BitVec.ofNat 32 P.maxScale

/-- `REG[n] <- v` by the host, for the registers it may write (20_memory R67); `none` for the others. -/
def storeRegister (n : Reg) (v : Word) (s : State) : Option State :=
  match n with
  | .winW => some { s with winW := v }
  | .winH => some { s with winH := v }
  | .scale => some { s with scale := v }
  | .colorOff => some { s with colorOff := v }
  | .colorOn => some { s with colorOn := v }
  | .cmd => none
  | .status => none
  | .cause => none
  | .srcW => none
  | .srcH => none
  | .outW => none
  | .outH => none
  | .pixLen => none
  | .maxScale => none

/-! ## The run -/

/-- The state with `rest` as what remains of the run. -/
def State.withPending (s : State) (rest : List HostEvent) : State := { s with pending := rest }

/-- A reset event (70_reset R210): every piece of FBX's state gets its reset value. The rest of the run is the host's and
stays; a reset event is no transaction and gets no response (notes/assumptions/13.md). -/
def takeReset (s : State) : State := State.reset.withPending s.pending

end Sys2Proof.Machine
end

