-- ==== Sys2Proof/Machine/Operands.lean ====
section
/-! DEFINITION. The implicit operands of the commands (30_encoding R94, R96): registers as unsigned integers, the frame
bytes, one source pixel (41 R143) and the palette as a table (10_state R33). -/

namespace Sys2Proof.Machine

/-- `WIN_W × WIN_H`, the mathematical product (40 R121, R122). -/
def windowArea (s : State) : Nat := s.winW.toNat * s.winH.toNat

/-- Frame byte `i` for the scan of `EXPAND`, which runs only when every byte has been written (41 R140): the 0 stands for
no byte and is never read then (notes/assumptions/16.md). -/
def frameByte (m : Memory) (i : Nat) : Byte := (m.read i).getD 0#8

/-- The index in the frame of the byte that holds source pixel `(sx, sy)` (41 R143). -/
def sourceByteIndex (sx sy : Nat) : Nat := sy * Config.bpr + sx / 8

/-- `srcbit(sx, sy)`: bit 7 of a byte is the leftmost of its eight pixels (41 R143). -/
def srcbit (m : Memory) (sx sy : Nat) : Bool := (frameByte m (sourceByteIndex sx sy)).getLsbD (7 - sx % 8)

/-- `PAL[b]`: `COLOR_OFF` for a bit of 0, `COLOR_ON` for a bit of 1 (10_state R33; 41 R144). -/
def palette (colorOff colorOn : Word) (b : Bool) : Word := if b then colorOn else colorOff

end Sys2Proof.Machine
end

