-- ==== Sys2Proof/Machine/Expander.lean ====
section
/-! DEFINITION. Stages 2 to 5 of FBX, the expander: the command `EXPAND` (41_expander). -/

namespace Sys2Proof.Machine

/-- The scale check (41 R141): the command fault a scale raises, if any. -/
def checkScale (maxScale s : Nat) : Option CommandFault :=
  if s = 0 then some .scaleZero
  else if s > maxScale then some .scaleTooLarge
  else none

/-- One frame byte as a segment of the expanded row: bit 7 first, a run of `s` words for each bit (41 R142 steps 2, 3;
R143, R144, R145). -/
def expandByte (colorOff colorOn : Word) (s : Nat) (b : Byte) : List Word :=
  (List.range 8).flatMap fun k => List.replicate s (palette colorOff colorOn (b.getLsbD (7 - k)))

/-- One expanded source row: the segments of its `BPR` bytes, left to right (41 R142 step 4). -/
def expandRow (m : Memory) (colorOff colorOn : Word) (s sy : Nat) : List Word :=
  (List.range Config.bpr).flatMap fun bx => expandByte colorOff colorOn s (frameByte m (sy * Config.bpr + bx))

/-- The scan (41 R142): source rows top to bottom, each expanded row appended `s` times as a whole (step 5, R146). -/
def expandScan (m : Memory) (colorOff colorOn : Word) (s : Nat) : List Word :=
  (List.range Config.srcH).flatMap fun sy => (List.replicate s (expandRow m colorOff colorOn s sy)).flatten

/-- What a successful `EXPAND` with scale `s` leaves (41 R140): the whole pixel buffer replaced, its geometry latched. -/
def expanded (k : Nat) (s : State) : State :=
  { s with
    pixbuf := expandScan s.frame s.colorOff s.colorOn k
    outW := BitVec.ofNat 32 (Config.srcW * k)
    outH := BitVec.ofNat 32 (Config.srcH * k)
    pixLen := BitVec.ofNat 32 (k * k * Config.srcW * Config.srcH)
    response := some .ok }

/-- `EXPAND` in an FBX with the parameters `P` (41 R140): the scale check comes before the check for a whole frame
(60_exceptions R192), and a frame that is not whole is the model fault `UnwrittenFrame` (60_exceptions R184). -/
def expandWith (P : Config.Params) (s : State) : Result :=
  match checkScale P.maxScale s.scale.toNat with
  | some c => .next (raiseCommandFault c s)
  | none => if s.frame.whole then .next (expanded s.scale.toNat s) else .fault .unwrittenFrame

/-- `EXPAND` (41 R140). -/
def execExpand (s : State) : Result := expandWith Config.params s

end Sys2Proof.Machine
end

