-- ==== Sys2Proof/Machine/ScaleCalc.lean ====
section
/-! DEFINITION. Stage 1 of FBX, the scale calculator: the command `CALCSCALE` (40_scale_calculator). -/

namespace Sys2Proof.Machine

/-- The integer square root of `n` by the base-4 digits of `n`, `fuel` of them at most. -/
def isqrtDigits : Nat → Nat → Nat
  | 0, _ => 0
  | fuel + 1, n =>
    if n = 0 then 0
    else
      let r := 2 * isqrtDigits fuel (n / 4)
      if (r + 1) * (r + 1) ≤ n then r + 1 else r

/-- `isqrt(n)`: the unique `r` with `r² ≤ n < (r + 1)²` (00_scope R9). A number of `b` bits has at most `b / 2 + 1` base-4
digits. -/
def isqrt (n : Nat) : Nat := isqrtDigits (n.log2 / 2 + 1) n

/-- `computeScale` (40 R121): `none` is the failure `InvalidDimensions`. All arithmetic is exact (40 R122). -/
def computeScale (area srcArea : Nat) : Option Nat :=
  if srcArea = 0 then none else some (isqrt (area / srcArea))

/-- `CALCSCALE` in an FBX whose source raster is `srcW × srcH` (40 R121; 00_scope R8). -/
def calcscaleWith (srcW srcH : Nat) (s : State) : State :=
  match computeScale (windowArea s) (srcW * srcH) with
  | none => raiseCommandFault .invalidDimensions s
  | some r => { s with scale := BitVec.ofNat 32 r, response := some .ok }

/-- `CALCSCALE` (40 R121). -/
def execCalcscale (s : State) : Result := .next (calcscaleWith Config.srcW Config.srcH s)

end Sys2Proof.Machine
end

