-- ==== Sys2Proof/Machine/Control.lean ====
section
/-! DEFINITION. `CLRERR`, the reserved command words (42_control_commands), and the execution of a command word
(30_encoding R93). -/

namespace Sys2Proof.Machine

/-- `CLRERR` (42 R170). -/
def execClrerr (s : State) : Result := .next (clearCommandFault s)

/-- A reserved command word (42 R171; 30_encoding R95): the command fault `IllegalCommand`. The word is recorded
nowhere. -/
def execCmdwordReserved (_w : Word) (s : State) : Result := .next (raiseCommandFault .illegalCommand s)

/-- `execute_command(w)` (30_encoding R93). -/
def executeCommand (w : Word) (s : State) : Result :=
  match commandOf w with
  | .calcscale => execCalcscale s
  | .expand => execExpand s
  | .clrerr => execClrerr s
  | .illegal w => execCmdwordReserved w s

end Sys2Proof.Machine
end

