-- ==== Sys2Proof/Machine/Access.lean ====
section
/-! DEFINITION. The five bus access operations (20_memory R66 to R70). -/

namespace Sys2Proof.Machine

/-- `RDREG n` (20_memory R66): no side effect on any register. -/
def execRdreg (n : Reg) (s : State) : Result := .next (s.respond (.okWord (readRegister Config.params n s)))

/-- `WRREG n, v` (20_memory R67): a command, a store, or the access fault `ReadOnly`. -/
def execWrreg (n : Reg) (v : Word) (s : State) : Result :=
  if n = .cmd then executeCommand v s
  else
    match storeRegister n v s with
    | some s' => .next (s'.respond .ok)
    | none => .next (refuseAccess .readOnly s)

/-- `RDFRAME i` (20_memory R68): a byte nothing has written since reset is the model fault `UnwrittenFrame`
(60_exceptions R184; 93 U7). -/
def execRdframe (i : Byte) (s : State) : Result :=
  match s.frame.read i.toNat with
  | some b => .next (s.respond (.okByte b))
  | none => .fault .unwrittenFrame

/-- `WRFRAME i, b` (20_memory R69). -/
def execWrframe (i b : Byte) (s : State) : Result :=
  .next { s with frame := s.frame.write i.toNat b, response := some .ok }

/-- `RDPIX k` (20_memory R70): `PixRange` at and beyond `PIX_LEN`. In a state that no run reaches, where the pixel buffer
is shorter than `PIX_LEN`, a word that is not there is `PixRange` as well (notes/assumptions/11.md). -/
def execRdpix (k : Nat) (s : State) : Result :=
  if s.pixLen.toNat ≤ k then .next (refuseAccess .pixRange s)
  else
    match s.pixbuf[k]? with
    | some w => .next (s.respond (.okWord w))
    | none => .next (refuseAccess .pixRange s)

end Sys2Proof.Machine
end

