-- ==== Sys2Proof/Machine/Dispatch.lean ====
section
/-! DEFINITION. The meaning of every operation of FBX, one arm per constructor of `Instr`. -/

namespace Sys2Proof.Machine

/-- What an operation does (opcode_table.json; 00_scope R2). -/
def exec (i : Instr) (s : State) : Host.Outcome State Fault Refusal :=
  match i with
  | .calcscale => Sys2Proof.Machine.execCalcscale s
  | .expand => Sys2Proof.Machine.execExpand s
  | .clrerr => Sys2Proof.Machine.execClrerr s
  | .cmdwordReserved w => Sys2Proof.Machine.execCmdwordReserved w s
  | .rdreg n => Sys2Proof.Machine.execRdreg n s
  | .wrreg n v => Sys2Proof.Machine.execWrreg n v s
  | .rdframe n => Sys2Proof.Machine.execRdframe n s
  | .wrframe n b => Sys2Proof.Machine.execWrframe n b s
  | .rdpix k => Sys2Proof.Machine.execRdpix k s

end Sys2Proof.Machine
end

