-- ==== Sys2Proof/Machine/Step.lean ====
section
/-! DEFINITION. One step of FBX: the next host operation or reset event of the run (00_scope R13, R14). -/

namespace Sys2Proof.Machine

/-- One step. FBX fetches nothing: the next thing it does is the next host operation (10_state R40), here the first of
`pending`. A transaction is decoded (20_memory R65) and carried out whole before the step ends (70_reset R227), or refused
with `error`; a reset event resets; with nothing pending nothing changes (10_state R44; notes/assumptions/8.md). -/
def step (s : State) : Host.Outcome State Fault Refusal :=
  match s.pending with
  | [] => .next s
  | .reset :: rest => .next (takeReset (s.withPending rest))
  | .bus t :: rest =>
    match decode t with
    | .ok i => exec i (s.withPending rest)
    | .refused r => .next (refuseAccess r (s.withPending rest))

/-- `s` with the transaction that the opcode-table word `w` stands for as the host's next operation (`tableTransaction`,
notes/assumptions/6.md). -/
def State.withFetchWord (s : State) (_nbits w : Nat) : State :=
  s.withPending (.bus (tableTransaction w) :: s.pending)

end Sys2Proof.Machine
end

