-- ==== Sys2Proof/Machine/Script.lean ====
section
/-! DEFINITION. Host programs in the script form of 30_encoding R98, and the pseudo-operations of R99, each as the list
of lines it stands for. A script's events are what `pending` holds while the host runs it. -/

namespace Sys2Proof.Machine

/-- One line of a script (30_encoding R98). -/
inductive ScriptLine where
  /-- An access operation or a command, by name. -/
  | op (i : Instr)
  /-- `CMDWORD w`: an arbitrary word written to `CMD`. -/
  | cmdword (w : Word)
  /-- `BUS dir, size, a[, wdata]`: a raw transaction. -/
  | bus (t : Transaction)
  /-- `RESET`: a reset event. -/
  | reset
  deriving DecidableEq, Repr

/-- What a line asks of FBX (30_encoding R98, third column). -/
def ScriptLine.event : ScriptLine → HostEvent
  | .op i => .bus (encode i)
  | .cmdword w => .bus (commandWrite w)
  | .bus t => .bus t
  | .reset => .reset

/-- The events of a script, in order. -/
def scriptEvents (lines : List ScriptLine) : List HostEvent := lines.map ScriptLine.event

/-- `COMPUTESCALE w, h` (30_encoding R99). -/
def computeScaleScript (w h : Word) : List ScriptLine := [.op (.wrreg .winW w), .op (.wrreg .winH h), .op .calcscale]

/-- `EXPANDWITH s` (30_encoding R99). -/
def expandWithScript (s : Word) : List ScriptLine := [.op (.wrreg .scale s), .op .expand]

/-- `LOADFRAME b0, ..., b255` (30_encoding R99), for any number of bytes from index `i` on. -/
def loadFrameFrom : Nat → List Byte → List ScriptLine
  | _, [] => []
  | i, b :: bs => .op (.wrframe (BitVec.ofNat 8 i) b) :: loadFrameFrom (i + 1) bs

/-- `LOADFRAME b0, ..., b255` (30_encoding R99). -/
def loadFrameScript (bytes : List Byte) : List ScriptLine := loadFrameFrom 0 bytes

/-- `FILLFRAME b` (30_encoding R99). -/
def fillFrameScript (b : Byte) : List ScriptLine := loadFrameScript (List.replicate Config.frameBytes b)

/-- `SETPAL off, on` (30_encoding R99). -/
def setPalScript (off on : Word) : List ScriptLine := [.op (.wrreg .colorOff off), .op (.wrreg .colorOn on)]

/-- `READALL` (30_encoding R99), for the length `len` that its first line reads. -/
def readAllScript (len : Nat) : List ScriptLine :=
  .op (.rdreg .pixLen) :: (List.range len).map fun k => .op (.rdpix k)

end Sys2Proof.Machine
end

