-- ==== Sys2Proof/Safety.lean ====
section
/-! DEFINITION. What claims about FBX say of a state: the legal states (the invariants that 10_state R24, R25, R31, R32
and R34 give), the host's duties that concern FBX's own state (70_reset R220, R224, R225), and a step that neither stops
nor is answered `error`. -/

namespace Sys2Proof.Safety

open Sys2Proof.Machine

/-- 10_state R24, R25: `ERR` is 1 if and only if `CODE` is not 0, `CODE` is 0 to 4, reserved bits are 0. -/
def ErrorRecordLegal (s : State) : Prop :=
  (s.status = 0#32 ∧ s.cause = 0#32) ∨
    (s.status = 1#32 ∧ (s.cause = 1#32 ∨ s.cause = 2#32 ∨ s.cause = 3#32 ∨ s.cause = 4#32))

/-- 10_state R32, R34: the geometry registers describe the pixel buffer, which is empty or was made at a scale `g` that
the buffer can hold. -/
def GeometryLegal (s : State) : Prop :=
  ∃ g, g ≤ Config.params.maxScale ∧
    s.outW.toNat = 64 * g ∧ s.outH.toNat = 32 * g ∧ s.pixLen.toNat = s.outW.toNat * s.outH.toNat ∧
    s.pixbuf.length = s.pixLen.toNat

/-- A legal state: the error record, the geometry and the canonical form of the frame store. -/
def Legal (s : State) : Prop := ErrorRecordLegal s ∧ GeometryLegal s ∧ s.frame.wf = true

/-- 70_reset R220, R224, in an FBX with the parameters `P`: what the host must have done before an `EXPAND` can succeed. -/
def ReadyToExpandAt (P : Config.Params) (s : State) : Prop :=
  (∀ i, i < 256 → ∃ b, s.frame.read i = some b) ∧ 1 ≤ s.scale.toNat ∧ s.scale.toNat ≤ P.maxScale

/-- 70_reset R220, R224: what the host must have done before an `EXPAND` of this FBX can succeed. -/
def ReadyToExpand (s : State) : Prop := ReadyToExpandAt Config.params s

/-- 70_reset R225: the window is `64 × m` by `32 × m`. -/
def WindowFits (m : Nat) (s : State) : Prop := s.winW.toNat = 64 * m ∧ s.winH.toNat = 32 * m

/-- The transaction that led to `s` was answered `error` (60_exceptions R190). -/
def AnsweredError (s : State) : Prop := ∃ r, s.response = some (.error r)

/-- The careful reading of 60_exceptions R190, for claims that must not continue past an access fault: the step answers
a next state and its response is no `error` (notes/assumptions/3.md). -/
def CleanStep (s t : State) : Prop := step s = .next t ∧ ¬ AnsweredError t

end Sys2Proof.Safety
end

