-- ==== Sys2Proof/Certificates/Slice0/Obligations.lean ====
section
/-! DEFINITION. The statements for the provers, in the order of the spec's files. `s.winW.toNat * s.winH.toNat` is
`WIN_W × WIN_H` on mathematical integers; 64, 32, 2048 are `SRC_W`, `SRC_H` and their product (00_scope R7). An equation
`exec i s = .next { s with … }` says the whole frame: every field not named is as before, every byte of the frame store
and every pixel word among them. -/

open Sys2Proof Sys2Proof.Machine Sys2Proof.Safety

/-! ## Reset and the run -/

/-- 10_state R43. -/
def Obligations.ResetLeavesTheStatedValues : Prop :=
  State.reset.status = 0#32 ∧ State.reset.cause = 0#32 ∧ State.reset.winW = 0#32 ∧ State.reset.winH = 0#32 ∧
    State.reset.scale = 0#32 ∧ State.reset.colorOff = Config.params.palOffReset ∧
    State.reset.colorOn = Config.params.palOnReset ∧ State.reset.outW = 0#32 ∧ State.reset.outH = 0#32 ∧
    State.reset.pixLen = 0#32 ∧ State.reset.pixbuf = [] ∧
    (∀ i, State.reset.frame.read i = none ∧ State.reset.frame.marked i = false) ∧
    (∀ s, readRegister Config.params .srcW s = 64#32 ∧ readRegister Config.params .srcH s = 32#32 ∧
      readRegister Config.params .maxScale s = BitVec.ofNat 32 Config.params.maxScale)

/-- 70_reset R210, R211: a reset event, whatever went before. That the rest of the run stays and that a reset event has no
response are the model's (notes/assumptions/1.md, 13.md). -/
def Obligations.ResetEventGivesTheResetState : Prop :=
  ∀ (s : State) (rest : List HostEvent), s.pending = .reset :: rest →
    step s = .next { State.reset with pending := rest }

/-- 70_reset R212: what the first operation after reset gives. The next state after `PixRange` is the model's choice
(notes/assumptions/3.md). -/
def Obligations.FirstOperationsAfterReset : Prop :=
  (∀ n, exec (.rdreg n) State.reset =
      .next { State.reset with response := some (.okWord (readRegister Config.params n State.reset)) }) ∧
    (∀ k, exec (.rdpix k) State.reset = .next { State.reset with response := some (.error .pixRange) }) ∧
    exec .expand State.reset =
      .next { State.reset with status := 1#32, cause := 2#32, response := some .ok } ∧
    exec .calcscale State.reset = .next { State.reset with response := some .ok } ∧
    exec .clrerr State.reset = .next { State.reset with response := some .ok } ∧
    (∀ i, exec (.rdframe i) State.reset = .fault .unwrittenFrame)

/-- The step runs the operation that the next transaction decodes to, and takes the transaction off the run (10_state R40;
70_reset R227; the run as a field is the model's, notes/assumptions/1.md). -/
def Obligations.StepRunsTheDecodedOperation : Prop :=
  ∀ (s : State) (tr : Transaction) (rest : List HostEvent) (i : Instr), s.pending = .bus tr :: rest →
    decode tr = .ok i → step s = exec i { s with pending := rest }

/-- 10_state R44: with no operation left, nothing changes (notes/assumptions/8.md). -/
def Obligations.NothingChangesWithoutAnOperation : Prop :=
  ∀ s : State, s.pending = [] → step s = .next s

/-! ## Registers -/

/-- 20_memory R66, with the register map of 10_state R22 written out; the reserved bits of `STATUS` and `CAUSE` are 0 in
every legal state. -/
def Obligations.RdregAnswersTheRegister : Prop :=
  ∀ (n : Reg) (s : State),
    exec (.rdreg n) s =
      .next { s with
        response := some (.okWord
          (match n with
          | .cmd => 0#32
          | .status => s.status
          | .cause => s.cause
          | .winW => s.winW
          | .winH => s.winH
          | .srcW => 64#32
          | .srcH => 32#32
          | .scale => s.scale
          | .colorOff => s.colorOff
          | .colorOn => s.colorOn
          | .outW => s.outW
          | .outH => s.outH
          | .pixLen => s.pixLen
          | .maxScale => BitVec.ofNat 32 Config.params.maxScale)) } ∧
      (ErrorRecordLegal s → s.status.toNat < 2 ∧ s.cause.toNat < 256) ∧
      encode (.rdreg n) = ⟨.read, .four, BitVec.ofNat 32 (4 * n.index), 0#32⟩

/-- 20_memory R67. That the run goes on after `ReadOnly` is the model's choice (notes/assumptions/3.md). -/
def Obligations.WrregStoresOrRunsACommand : Prop :=
  ∀ (v : Word) (s : State),
    exec (.wrreg .winW v) s = .next { s with winW := v, response := some .ok } ∧
      exec (.wrreg .winH v) s = .next { s with winH := v, response := some .ok } ∧
      exec (.wrreg .scale v) s = .next { s with scale := v, response := some .ok } ∧
      exec (.wrreg .colorOff v) s = .next { s with colorOff := v, response := some .ok } ∧
      exec (.wrreg .colorOn v) s = .next { s with colorOn := v, response := some .ok } ∧
      (∀ n ∈ [Reg.status, .cause, .srcW, .srcH, .outW, .outH, .pixLen, .maxScale],
        exec (.wrreg n v) s = .next { s with response := some (.error .readOnly) }) ∧
      exec (.wrreg .cmd v) s =
        exec (if v = 1#32 then .calcscale else if v = 2#32 then .expand else if v = 3#32 then .clrerr
          else .cmdwordReserved v) s ∧
      (∀ n, encode (.wrreg n v) = ⟨.write, .four, BitVec.ofNat 32 (4 * n.index), v⟩)

/-- 10_state R24 (`ERR` is sticky), 42 R170: what `CLRERR` does, and that besides it only a reset clears `ERR`. -/
def Obligations.ClrerrAloneClearsTheErrorFlag : Prop :=
  (∀ s : State, exec .clrerr s =
      .next { s with status := s.status &&& ~~~1#32, cause := 0#32, response := some .ok } ∧
      (s.status &&& ~~~1#32).getLsbD 0 = false) ∧
    encode .clrerr = ⟨.write, .four, 0#32, 3#32⟩ ∧
    (∀ s t : State, step s = .next t →
      (s.status.getLsbD 0 = true ∧ t.status.getLsbD 0 = false) ∨ (s.cause ≠ 0#32 ∧ t.cause = 0#32) →
      ∃ e rest, s.pending = e :: rest ∧ (e = .reset ∨ ∃ tr, e = .bus tr ∧ decode tr = .ok .clrerr))

/-- 60_exceptions R181, R186, R192: what an operation does to the error record. Cause 1 cannot occur with the 64 × 32
raster (R182). An ill-formed `cmdwordReserved` of 1, 2 or 3, which the decoder never gives, is the model's choice
(notes/assumptions/12.md). -/
def Obligations.ErrorRecordChangesOnlyByFaultsAndClrerr : Prop :=
  ∀ (i : Instr) (s t : State), exec i s = .next t → t.status ≠ s.status ∨ t.cause ≠ s.cause →
    (t = { s with status := s.status &&& ~~~1#32, cause := 0#32, response := some .ok } ∧
        (i = .clrerr ∨ i = .wrreg .cmd 3#32)) ∨
      (t = { s with status := s.status ||| 1#32, cause := 2#32, response := some .ok } ∧
        s.scale = 0#32 ∧ (i = .expand ∨ i = .wrreg .cmd 2#32)) ∨
      (t = { s with status := s.status ||| 1#32, cause := 3#32, response := some .ok } ∧
        s.scale.toNat > Config.params.maxScale ∧ (i = .expand ∨ i = .wrreg .cmd 2#32)) ∨
      (t = { s with status := s.status ||| 1#32, cause := 4#32, response := some .ok } ∧
        ∃ w, i = .cmdwordReserved w ∨ (i = .wrreg .cmd w ∧ w ≠ 1#32 ∧ w ≠ 2#32 ∧ w ≠ 3#32))

/-- 60_exceptions R193: each command fault of R181, raised while `ERR` is 1, leaves `STATUS` as it is and overwrites the
code: no trace of the earlier one stays. Cause 1 is said for the source rasters that can raise it (R182). The last clause
is two faults in a row, whatever the record was before them. -/
def Obligations.LaterFaultOverwritesTheCause : Prop :=
  (∀ s : State, s.status.getLsbD 0 = true →
      (∀ srcW srcH, srcW * srcH = 0 → calcscaleWith srcW srcH s = { s with cause := 1#32, response := some .ok }) ∧
      (s.scale.toNat = 0 → ∀ i ∈ [Instr.expand, .wrreg .cmd 2#32],
        exec i s = .next { s with cause := 2#32, response := some .ok }) ∧
      (s.scale.toNat > Config.params.maxScale → ∀ i ∈ [Instr.expand, .wrreg .cmd 2#32],
        exec i s = .next { s with cause := 3#32, response := some .ok }) ∧
      (∀ w, w ≠ 1#32 → w ≠ 2#32 → w ≠ 3#32 → ∀ i ∈ [Instr.cmdwordReserved w, .wrreg .cmd w],
        exec i s = .next { s with cause := 4#32, response := some .ok })) ∧
    (∀ (s t : State) (w : Word), s.scale.toNat > Config.params.maxScale → exec .expand s = .next t →
      w ≠ 1#32 → w ≠ 2#32 → w ≠ 3#32 →
      t.status.getLsbD 0 = true ∧ t.cause = 3#32 ∧
        exec (.cmdwordReserved w) t =
          .next { s with status := s.status ||| 1#32, cause := 4#32, response := some .ok })

/-- 20_memory R67, 60_exceptions R180: a write of `CMD` is answered `ok` whether its command succeeds or faults. -/
def Obligations.CommandWriteIsAnsweredOk : Prop :=
  ∀ (s t : State) (w : Word) (rest : List HostEvent),
    s.pending = .bus ⟨.write, .four, 0#32, w⟩ :: rest → step s = .next t → t.response = some .ok ∧ t.pending = rest

/-! ## The frame store -/

/-- 20_memory R68, with the model fault of 60_exceptions R184. -/
def Obligations.RdframeAnswersTheWrittenByte : Prop :=
  ∀ (i : Byte) (s : State),
    (∀ b, s.frame.read i.toNat = some b → exec (.rdframe i) s = .next { s with response := some (.okByte b) }) ∧
      (s.frame.read i.toNat = none → exec (.rdframe i) s = .fault .unwrittenFrame) ∧
      encode (.rdframe i) = ⟨.read, .one, BitVec.ofNat 32 (0x100 + i.toNat), 0#32⟩

/-- 20_memory R69: one byte written and marked, nothing else, and no other operation changes a byte. -/
def Obligations.WrframeAloneWritesTheFrame : Prop :=
  (∀ (i b : Byte) (s : State), ∃ m : Memory,
      exec (.wrframe i b) s = .next { s with frame := m, response := some .ok } ∧
      m.read i.toNat = some b ∧ m.marked i.toNat = true ∧
      ∀ j, j ≠ i.toNat → m.read j = s.frame.read j ∧ m.marked j = s.frame.marked j) ∧
    (∀ i b : Byte, encode (.wrframe i b) = ⟨.write, .one, BitVec.ofNat 32 (0x100 + i.toNat), b.setWidth 32⟩) ∧
    (∀ (i : Instr) (s t : State), exec i s = .next t → t.frame ≠ s.frame → ∃ j b, i = .wrframe j b)

/-- 20_memory R77: `EXPAND` sees a byte written before it, in every one of the `8 k × k` pixels it makes from that byte
(`k` output rows of `8 k` words); it works on every byte of the frame store as it stands; and a byte written after it
leaves its pixels alone. -/
def Obligations.ExpandTakesASnapshotOfTheFrame : Prop :=
  (∀ (i b : Byte) (s t u : State) (k x v : Nat), s.scale.toNat = k → exec (.wrframe i b) s = .next t →
      ReadyToExpand t → exec .expand t = .next u → x < 8 * k → v < k →
      u.pixbuf[((i.toNat / 8) * k + v) * (64 * k) + (i.toNat % 8) * (8 * k) + x]? =
        some (if b.getLsbD (7 - x / k) then s.colorOn else s.colorOff)) ∧
    (∀ (s u : State) (c : Byte) (j k x v : Nat), s.scale.toNat = k → ReadyToExpand s → exec .expand s = .next u →
      j < 256 → s.frame.read j = some c → x < 8 * k → v < k →
      u.pixbuf[((j / 8) * k + v) * (64 * k) + (j % 8) * (8 * k) + x]? =
        some (if c.getLsbD (7 - x / k) then s.colorOn else s.colorOff)) ∧
    (∀ (i b : Byte) (s t u : State), exec .expand s = .next t → exec (.wrframe i b) t = .next u →
      u.pixbuf = t.pixbuf ∧ u.pixLen = t.pixLen ∧ u.outW = t.outW ∧ u.outH = t.outH)

/-- 60_exceptions R184, R192: where the model stops, and that nothing is refused as not modelled. That nothing else stops
is the model's choice: R190 calls an access fault (`ReadOnly`, `PixRange`) a fault outcome of the step and leaves it to
the model whether to go on, and the model takes it as a next state (notes/assumptions/3.md; for a missing pixel word and
for ill-formed operations notes/assumptions/11.md, 12.md). -/
def Obligations.StopsOnlyOnAnUnwrittenFrame : Prop :=
  ∀ (i : Instr) (s : State),
    (∀ f, exec i s = .fault f ↔
      f = .unwrittenFrame ∧
        ((∃ j : Byte, i = .rdframe j ∧ s.frame.read j.toNat = none) ∨
          ((i = .expand ∨ i = .wrreg .cmd 2#32) ∧ 1 ≤ s.scale.toNat ∧ s.scale.toNat ≤ Config.params.maxScale ∧
            ∃ j, j < 256 ∧ s.frame.read j = none))) ∧
      ∀ r, exec i s ≠ .refused r

/-! ## Encodings and refused transactions -/

/-- Words written out from 30_encoding R91, R94 and 20_memory R64. -/
def Obligations.WordsDecodeAsTheSpecEncodesThem : Prop :=
  decode ⟨.write, .four, 0x00000000#32, 0x00000001#32⟩ = .ok .calcscale ∧
    decode ⟨.write, .four, 0x00000000#32, 0x00000002#32⟩ = .ok .expand ∧
    decode ⟨.write, .four, 0x00000000#32, 0x00000003#32⟩ = .ok .clrerr ∧
    decode ⟨.write, .four, 0x00000000#32, 0x00000102#32⟩ = .ok (.cmdwordReserved 0x00000102#32) ∧
    decode ⟨.read, .four, 0x00000034#32, 0#32⟩ = .ok (.rdreg .maxScale) ∧
    decode ⟨.write, .four, 0x0000001c#32, 0xffffffff#32⟩ = .ok (.wrreg .scale 0xffffffff#32) ∧
    decode ⟨.read, .one, 0x000001ff#32, 0#32⟩ = .ok (.rdframe 255#8) ∧
    decode ⟨.write, .one, 0x00000105#32, 0x0000003c#32⟩ = .ok (.wrframe 5#8 0x3c#8) ∧
    decode ⟨.read, .four, 0x00101ffc#32, 0#32⟩ = .ok (.rdpix 2047)

/-- 30_encoding R93: command decode, field by field, what `WRREG CMD` then runs, and the command fault of every word that
selects no command. -/
def Obligations.CommandDecodeIsTotal : Prop :=
  ∀ w : Word,
    (w.extractLsb' 8 24 ≠ 0#24 → decode ⟨.write, .four, 0#32, w⟩ = .ok (.cmdwordReserved w)) ∧
      (w.extractLsb' 8 24 = 0#24 →
        decode ⟨.write, .four, 0#32, w⟩ =
          .ok (match (w.extractLsb' 0 8).toNat with
            | 1 => .calcscale
            | 2 => .expand
            | 3 => .clrerr
            | _ => .cmdwordReserved w)) ∧
      (∀ s i, decode ⟨.write, .four, 0#32, w⟩ = .ok i → exec (.wrreg .cmd w) s = exec i s) ∧
      (w ≠ 1#32 → w ≠ 2#32 → w ≠ 3#32 → ∀ s, exec (.cmdwordReserved w) s =
        .next { s with status := s.status ||| 1#32, cause := 4#32, response := some .ok })

/-- 30_encoding R91, R94, R96: the decoder reads back every well-formed operation with every operand; a write of `CMD` it
reads as the command (notes/assumptions/7.md). -/
def Obligations.DecodeReadsBackEveryEncoding : Prop :=
  ∀ i : Instr, i.wellFormed = true →
    decode (encode i) = .ok i.canonical ∧ ((∀ v, i ≠ .wrreg .cmd v) → i.canonical = i) ∧
      ∀ s, exec i.canonical s = exec i s

/-- 30_encoding R91: a transaction that is accepted is the encoding of the well-formed operation it decodes to, so no two
transactions ask for the same operation. -/
def Obligations.AcceptedTransactionsAreEncodings : Prop :=
  ∀ (tr : Transaction) (i : Instr), tr.wellFormed = true → decode tr = .ok i →
    i.wellFormed = true ∧ encode i = tr

/-- 20_memory R64, R65, 60_exceptions R192: which transactions are refused in decoding, and for which reason. -/
def Obligations.RefusedTransactionsAndTheirReasons : Prop :=
  ∀ tr : Transaction,
    (decode tr = .refused .unmapped ↔
      (0x38 ≤ tr.a.toNat ∧ tr.a.toNat < 0x100) ∨ (0x200 ≤ tr.a.toNat ∧ tr.a.toNat < 0x100000) ∨
        0x100000 + 4 * (Config.params.maxScale ^ 2 * 2048) ≤ tr.a.toNat) ∧
      (decode tr = .refused .badSize ↔
        (0x100 ≤ tr.a.toNat ∧ tr.a.toNat < 0x200 ∧ tr.size ≠ .one) ∨
          ((tr.a.toNat < 0x38 ∨
            (0x100000 ≤ tr.a.toNat ∧ tr.a.toNat < 0x100000 + 4 * (Config.params.maxScale ^ 2 * 2048))) ∧
            tr.size ≠ .four)) ∧
      (decode tr = .refused .misaligned ↔
        (tr.a.toNat < 0x38 ∨
          (0x100000 ≤ tr.a.toNat ∧ tr.a.toNat < 0x100000 + 4 * (Config.params.maxScale ^ 2 * 2048))) ∧
          tr.size = .four ∧ tr.a.toNat % 4 ≠ 0) ∧
      (decode tr = .refused .readOnly ↔
        0x100000 ≤ tr.a.toNat ∧ tr.a.toNat < 0x100000 + 4 * (Config.params.maxScale ^ 2 * 2048) ∧
          tr.size = .four ∧ tr.a.toNat % 4 = 0 ∧ tr.dir = .write) ∧
      decode tr ≠ .refused .pixRange

/-- 60_exceptions R190: an operation answered `error` has changed nothing, and a transaction that the decoder refuses is
answered `error`. That both are next states is the model's choice (notes/assumptions/3.md). -/
def Obligations.AccessFaultsChangeNothing : Prop :=
  (∀ (s t : State) (tr : Transaction) (rest : List HostEvent) (r : AccessFault), s.pending = .bus tr :: rest →
      step s = .next t → t.response = some (.error r) →
      t = { s with pending := rest, response := some (.error r) }) ∧
    (∀ (s : State) (tr : Transaction) (rest : List HostEvent) (r : AccessFault), s.pending = .bus tr :: rest →
      decode tr = .refused r → step s = .next { s with pending := rest, response := some (.error r) })

/-! ## The pixel buffer -/

/-- 20_memory R70. That the run goes on after `PixRange` is the model's choice (notes/assumptions/3.md). -/
def Obligations.RdpixAnswersTheWord : Prop :=
  ∀ (k : Nat) (s : State), GeometryLegal s →
    (k < s.pixLen.toNat →
      ∃ w, s.pixbuf[k]? = some w ∧ exec (.rdpix k) s = .next { s with response := some (.okWord w) }) ∧
      (s.pixLen.toNat ≤ k → exec (.rdpix k) s = .next { s with response := some (.error .pixRange) })

/-- 10_state R32, R34, R44; 41 R149: the pixel buffer and its geometry change only in a reset or in an `EXPAND` whose
scale is legal and whose frame is whole. -/
def Obligations.PixelBufferChangesOnlyByExpandAndReset : Prop :=
  ∀ s t : State, step s = .next t →
    (t.pixbuf = s.pixbuf ∧ t.outW = s.outW ∧ t.outH = s.outH ∧ t.pixLen = s.pixLen) ∨
      (∃ rest, s.pending = .reset :: rest) ∨
      (ReadyToExpand s ∧ ∃ tr rest, s.pending = .bus tr :: rest ∧ decode tr = .ok .expand)

/-! ## The scale calculator -/

/-- 40 R121: `CALCSCALE`, for every source raster (00_scope R8) and for the one this hardware has. -/
def Obligations.CalcscaleComputesTheScale : Prop :=
  (∀ s : State, ∃ r : Nat,
      exec .calcscale s = .next { s with scale := BitVec.ofNat 32 r, response := some .ok } ∧
      r * r ≤ s.winW.toNat * s.winH.toNat / 2048 ∧ s.winW.toNat * s.winH.toNat / 2048 < (r + 1) * (r + 1) ∧
      r < 2 ^ 32) ∧
    (∀ (srcW srcH : Nat) (s : State), srcW * srcH ≠ 0 → ∃ r : Nat,
      calcscaleWith srcW srcH s = { s with scale := BitVec.ofNat 32 r, response := some .ok } ∧
      r * r ≤ s.winW.toNat * s.winH.toNat / (srcW * srcH) ∧
      s.winW.toNat * s.winH.toNat / (srcW * srcH) < (r + 1) * (r + 1) ∧ r < 2 ^ 32) ∧
    (∀ (srcW srcH : Nat) (s : State), srcW * srcH = 0 →
      calcscaleWith srcW srcH s = { s with status := s.status ||| 1#32, cause := 1#32, response := some .ok }) ∧
    (∀ s : State, exec .calcscale s = .next (calcscaleWith 64 32 s)) ∧
    encode .calcscale = ⟨.write, .four, 0#32, 1#32⟩

/-- 40 R123: the integer form is the document's real-number form, and the scale is the largest integer that fits. -/
def Obligations.ScaleIsTheFloorOfTheRealRoot : Prop :=
  (∀ N A : Nat, 1 ≤ A → ⌊Real.sqrt ((N : ℝ) / (A : ℝ))⌋₊ = isqrt (N / A)) ∧
    (∀ s t : State, exec .calcscale s = .next t →
      t.scale.toNat = ⌊Real.sqrt (((s.winW.toNat * s.winH.toNat : Nat) : ℝ) / ((64 * 32 : Nat) : ℝ))⌋₊ ∧
        IsGreatest {r : Nat | r ^ 2 * (64 * 32) ≤ s.winW.toNat * s.winH.toNat} t.scale.toNat)

/-- 40 R124, items (a) to (e). -/
def Obligations.ScaleLaws : Prop :=
  (∀ s s' t t' : State, s.winW.toNat ≤ s'.winW.toNat → s.winH.toNat ≤ s'.winH.toNat →
      exec .calcscale s = .next t → exec .calcscale s' = .next t' → t.scale.toNat ≤ t'.scale.toNat) ∧
    (∀ s t : State, exec .calcscale s = .next t →
      (1 ≤ t.scale.toNat ↔ 64 * 32 ≤ s.winW.toNat * s.winH.toNat) ∧
      (∀ m, s.winW.toNat = m * 64 → s.winH.toNat = m * 32 → t.scale.toNat = m) ∧
      t.scale.toNat ^ 2 * (64 * 32) ≤ s.winW.toNat * s.winH.toNat ∧
      (t.scale.toNat ^ 2 * (64 * 32) = s.winW.toNat * s.winH.toNat ↔
        ∃ m, s.winW.toNat * s.winH.toNat = 64 * 32 * m ^ 2) ∧
      (s.winW = 32#32 → s.winH = 256#32 → t.scale = 2#32 ∧
        ∀ P u, ReadyToExpandAt P t → expandWith P t = .next u →
          u.outW = 128#32 ∧ u.outH = 64#32 ∧ u.pixLen = 8192#32 ∧ u.pixLen.toNat = 32 * 256 ∧ u.outW ≠ s.winW))

/-! ## The expander -/

/-- 41 R141: the scale check. -/
def Obligations.ExpandChecksTheScale : Prop :=
  ∀ s : State,
    (s.scale.toNat = 0 →
      exec .expand s = .next { s with status := s.status ||| 1#32, cause := 2#32, response := some .ok }) ∧
      (s.scale.toNat > Config.params.maxScale →
        exec .expand s = .next { s with status := s.status ||| 1#32, cause := 3#32, response := some .ok }) ∧
      (1 ≤ s.scale.toNat → s.scale.toNat ≤ Config.params.maxScale →
        (exec .expand s = .fault .unwrittenFrame ∧ ¬ ReadyToExpand s) ∨
          ∃ t, exec .expand s = .next t ∧ t.status = s.status ∧ t.cause = s.cause)

/-- 41 R147, R148: `EXPAND` completes, and its pixel buffer is the closed form, by pixel and by word index. -/
def Obligations.ExpandBuildsTheClosedForm : Prop :=
  ∀ (s : State) (k : Nat), s.scale.toNat = k → ReadyToExpand s → ∃ px : List Word,
    exec .expand s =
      .next { s with
        pixbuf := px
        outW := BitVec.ofNat 32 (64 * k)
        outH := BitVec.ofNat 32 (32 * k)
        pixLen := BitVec.ofNat 32 (k ^ 2 * 64 * 32)
        response := some .ok } ∧
      px.length = k ^ 2 * 64 * 32 ∧ k ^ 2 * 64 * 32 < 2 ^ 32 ∧
      (∀ X Y, X < 64 * k → Y < 32 * k → ∃ b,
        s.frame.read ((Y / k) * 8 + (X / k) / 8) = some b ∧
        px[Y * (64 * k) + X]? = some (if b.getLsbD (7 - (X / k) % 8) then s.colorOn else s.colorOff)) ∧
      (∀ j, j < k ^ 2 * 64 * 32 → ∃ b,
        s.frame.read ((j / (64 * k) / k) * 8 + (j % (64 * k) / k) / 8) = some b ∧
        px[j]? = some (if b.getLsbD (7 - (j % (64 * k) / k) % 8) then s.colorOn else s.colorOff))

/-- 41 R149: a successful `EXPAND` leaves a buffer of the new length only, a faulting one nothing but the error record. -/
def Obligations.ExpandIsAllOrNothing : Prop :=
  ∀ s t : State, exec .expand s = .next t →
    (ReadyToExpand s ∧ t.pixbuf.length = s.scale.toNat ^ 2 * 2048 ∧ t.pixLen.toNat = s.scale.toNat ^ 2 * 2048 ∧
      ∀ w ∈ t.pixbuf, w = s.colorOff ∨ w = s.colorOn) ∨
      ((s.scale.toNat = 0 ∨ s.scale.toNat > Config.params.maxScale) ∧
        t = { s with status := t.status, cause := t.cause, response := some .ok } ∧ t.status = s.status ||| 1#32)

/-- 41 R151: what `EXPAND` leaves alone. -/
def Obligations.ExpandLeavesItsInputsAlone : Prop :=
  ∀ s t : State, exec .expand s = .next t →
    t.frame = s.frame ∧ t.scale = s.scale ∧ t.colorOff = s.colorOff ∧ t.colorOn = s.colorOn ∧ t.winW = s.winW ∧
      t.winH = s.winH ∧ t.pending = s.pending ∧
      (ReadyToExpand s → t.status = s.status ∧ t.cause = s.cause ∧
        ∃ u, exec .expand t = .next u ∧ u = t)

/-- 41 R150 (a), (b): uniform frames, whether or not the two colours differ (93 U8). -/
def Obligations.UniformFramesGiveOneColour : Prop :=
  ∀ s t : State, ReadyToExpand s → exec .expand s = .next t →
    ((∀ i, i < 256 → s.frame.read i = some 0x00#8) → ∀ w ∈ t.pixbuf, w = s.colorOff) ∧
      ((∀ i, i < 256 → s.frame.read i = some 0xff#8) → ∀ w ∈ t.pixbuf, w = s.colorOn)

/-- 41 R150 (d): the expansion at scale `k` is the expansion at scale 1 with every pixel a `k × k` block, in an FBX with
any parameters `P`, this one among them. -/
def Obligations.ScalingIsConsistent : Prop :=
  (∀ (P : Config.Params) (s t t1 : State) (k X Y : Nat), s.scale.toNat = k → ReadyToExpandAt P s →
      expandWith P s = .next t → expandWith P { s with scale := 1#32 } = .next t1 → X < 64 * k → Y < 32 * k →
      t.pixbuf[Y * (64 * k) + X]? = t1.pixbuf[(Y / k) * 64 + X / k]? ∧
        (t1.pixbuf[(Y / k) * 64 + X / k]?).isSome = true) ∧
    (∀ s : State, exec .expand s = expandWith Config.params s)

/-- 41 R150 (e): the number of words of the ON colour. -/
def Obligations.OnWordsCountTheFrameBits : Prop :=
  ∀ s t : State, ReadyToExpand s → s.colorOn ≠ s.colorOff → exec .expand s = .next t →
    t.pixbuf.countP (fun w => w == s.colorOn) =
      s.scale.toNat ^ 2 *
        ((List.range 256).map fun i =>
          (List.range 8).countP fun k => (((s.frame.read i).getD 0#8).getLsbD k)).sum

/-- 41 R150 (f), R152 (e): the result depends on the frame's bytes, the scale and the palette alone. -/
def Obligations.ExpandDependsOnItsInputsOnly : Prop :=
  ∀ s s' t : State, ReadyToExpand s → (∀ i, i < 256 → s'.frame.read i = s.frame.read i) → s'.scale = s.scale →
    s'.colorOff = s.colorOff → s'.colorOn = s.colorOn → exec .expand s = .next t →
    ∃ t', exec .expand s' = .next t' ∧ t'.pixbuf = t.pixbuf ∧ t'.outW = t.outW ∧ t'.outH = t.outH ∧
      t'.pixLen = t.pixLen

/-- 42 R171, 60_exceptions R185: a reserved command word, written as its own operation or by `WRREG`. -/
def Obligations.ReservedWordsAreIllegalCommands : Prop :=
  ∀ (w : Word) (s : State), w ≠ 1#32 → w ≠ 2#32 → w ≠ 3#32 →
    exec (.cmdwordReserved w) s =
        .next { s with status := s.status ||| 1#32, cause := 4#32, response := some .ok } ∧
      exec (.wrreg .cmd w) s =
        .next { s with status := s.status ||| 1#32, cause := 4#32, response := some .ok } ∧
      (s.status ||| 1#32).getLsbD 0 = true ∧ decode ⟨.write, .four, 0#32, w⟩ = .ok (.cmdwordReserved w)

/-- 70_reset R225: computing the scale and expanding gives a picture of the window's own shape exactly when the window is
`64 × m` by `32 × m`. -/
def Obligations.PictureCoversTheWindowExactly : Prop :=
  ∀ s t u : State, exec .calcscale s = .next t → ReadyToExpand t → exec .expand t = .next u →
    ((u.outW = s.winW ∧ u.outH = s.winH) ↔ ∃ m, 1 ≤ m ∧ WindowFits m s)

/-! ## Pseudo-operation and invariants -/

/-- 30_encoding R99, `LOADFRAME`: the 256 writes complete one by one, deliver byte `i` to index `i`, leave the frame whole
and everything else as it was. -/
def Obligations.LoadframeDeliversTheFrame : Prop :=
  ∀ (s : State) (bytes : List Byte) (rest : List HostEvent), bytes.length = 256 →
    s.pending = scriptEvents (loadFrameScript bytes) ++ rest →
    ∃ m : Memory,
      Sys2Proof.core.run 256 s = .next { s with frame := m, pending := rest, response := some .ok } ∧
      (∀ i, i < 256 → m.read i = bytes[i]?) ∧ m.whole = true ∧ (s.frame.wf = true → m.wf = true)

/-- The state after reset is legal (10_state R24, R25, R31, R32, R34, R43). -/
def Obligations.ResetStateIsLegal : Prop := Legal State.reset

/-- 10_state R24, R25, R32, R34, R31: every step from a legal state that goes on leads to a legal state. -/
def Obligations.EveryStepKeepsLegality : Prop :=
  ∀ s t : State, Legal s → step s = .next t → Legal t
end

