-- ==== Sys2Proof/Laws/Decode.lean ====
section
/-! SUPPORT. The register numbering, the flat map as ranges of offsets, and which words are commands. -/

namespace Sys2Proof

@[simp] theorem Reg.ofIndex_index (n : Reg) : Reg.ofIndex n.index = some n := by cases n <;> rfl

theorem Reg.index_le (n : Reg) : n.index ≤ 13 := by cases n <;> decide

/-- The register with an index has that index. -/
theorem Reg.index_of_ofIndex {k : Nat} {n : Reg} (h : Reg.ofIndex k = some n) : n.index = k := by
  match k with
  | 0 | 1 | 2 | 3 | 4 | 5 | 6 | 7 | 8 | 9 | 10 | 11 | 12 | 13 =>
    simp only [Reg.ofIndex, Option.some.injEq] at h
    subst h
    rfl
  | k + 14 => simp [Reg.ofIndex] at h

/-- Every index from 0 to 13 is a register's. -/
theorem Reg.ofIndex_isSome {k : Nat} (h : k ≤ 13) : ∃ n, Reg.ofIndex k = some n := by
  interval_cases k <;> exact ⟨_, rfl⟩

theorem Config.Params.maxScale_bounds (P : Config.Params) : 1 ≤ P.maxScale ∧ P.maxScale ≤ 723 := by
  have := P.maxScalePred.isLt
  unfold Config.Params.maxScale
  omega

/-- PIXBUF has at least the words of scale 1, and its flat offsets fit 32 bits (00_scope R8). -/
theorem Config.Params.pixbufWords_bounds (P : Config.Params) :
    2048 ≤ P.pixbufWords ∧ P.pixbufWords ≤ 1070548992 := by
  obtain ⟨h1, h2⟩ := P.maxScale_bounds
  have hlo : 1 * 1 ≤ P.maxScale * P.maxScale := Nat.mul_le_mul h1 h1
  have hhi : P.maxScale * P.maxScale ≤ 723 * 723 := Nat.mul_le_mul h2 h2
  simp only [Config.Params.pixbufWords, Config.srcW, Config.srcH, pow_two]
  omega

/-- The words PIXBUF has are those below `PIXBUF_WORDS`. -/
theorem hasPixelWord_iff (P : Config.Params) (k : Nat) : hasPixelWord P k = true ↔ k < P.pixbufWords := by
  have h : Config.rasterPixels ≤ P.pixbufWords := P.pixbufWords_bounds.1
  simp only [hasPixelWord, Bool.or_eq_true, decide_eq_true_eq]
  omega

/-- The flat map as ranges of offsets (20_memory R64). -/
theorem regionOf_spec (P : Config.Params) (a : Word) :
    (regionOf P a = .reg ∧ a.toNat < 0x38) ∨
      (regionOf P a = .frame ∧ 0x100 ≤ a.toNat ∧ a.toNat < 0x200) ∨
      (regionOf P a = .pixbuf ∧ 0x100000 ≤ a.toNat ∧ a.toNat < 0x100000 + 4 * P.pixbufWords) ∨
      (regionOf P a = .reserved ∧
        ((0x38 ≤ a.toNat ∧ a.toNat < 0x100) ∨ (0x200 ≤ a.toNat ∧ a.toNat < 0x100000) ∨
          0x100000 + 4 * P.pixbufWords ≤ a.toNat)) := by
  unfold regionOf frameBase pixbufBase
  simp only [hasPixelWord_iff]
  split_ifs <;> simp <;> omega

theorem commandRsv_eq_zero_iff (w : Word) : commandRsv w = 0#24 ↔ w.toNat < 256 := by
  simp only [commandRsv, ← BitVec.toNat_inj, BitVec.extractLsb'_toNat, BitVec.toNat_ofNat, Nat.shiftRight_eq_div_pow]
  omega

theorem commandOp_eq_iff (w : Word) (b : Byte) : commandOp w = b ↔ w.toNat % 256 = b.toNat := by
  simp only [commandOp, ← BitVec.toNat_inj, BitVec.extractLsb'_toNat, Nat.shiftRight_zero]

/-- Command decode as a choice among whole words (30_encoding R94, R95). -/
theorem commandOf_spec (w : Word) :
    commandOf w =
      if w = 1#32 then .calcscale else if w = 2#32 then .expand else if w = 3#32 then .clrerr else .illegal w := by
  have hw : ∀ c : Nat, c < 256 → (w = BitVec.ofNat 32 c ↔ w.toNat = c) := by
    intro c hc
    rw [← BitVec.toNat_inj, BitVec.toNat_ofNat, Nat.mod_eq_of_lt (by omega)]
  simp only [commandOf, ne_eq, commandRsv_eq_zero_iff, commandOp_eq_iff, hw 1 (by omega), hw 2 (by omega),
    hw 3 (by omega), BitVec.toNat_ofNat]
  split_ifs <;> first | rfl | omega

/-- A command other than an illegal one comes from its own word only; an illegal one keeps its word. -/
theorem commandOf_cases (w : Word) :
    (w = 1#32 ∧ commandOf w = .calcscale) ∨ (w = 2#32 ∧ commandOf w = .expand) ∨
      (w = 3#32 ∧ commandOf w = .clrerr) ∨ (w ≠ 1#32 ∧ w ≠ 2#32 ∧ w ≠ 3#32 ∧ commandOf w = .illegal w) := by
  rw [commandOf_spec]
  split_ifs with h1 h2 h3
  · exact .inl ⟨h1, rfl⟩
  · exact .inr (.inl ⟨h2, rfl⟩)
  · exact .inr (.inr (.inl ⟨h3, rfl⟩))
  · exact .inr (.inr (.inr ⟨h1, h2, h3, rfl⟩))

@[simp] theorem Reg.offset_toNat (n : Reg) : n.offset.toNat = 4 * n.index := by cases n <;> rfl

@[simp] theorem frameOffset_toNat (i : Byte) : (frameOffset i).toNat = 0x100 + i.toNat := by
  have := i.isLt
  simp only [frameOffset, frameBase, BitVec.toNat_ofNat]
  omega

theorem pixelOffset_toNat (P : Config.Params) {k : Nat} (h : k < P.pixbufWords) :
    (pixelOffset k).toNat = 0x100000 + 4 * k := by
  have := P.pixbufWords_bounds
  simp only [pixelOffset, pixbufBase, BitVec.toNat_ofNat]
  omega

end Sys2Proof
end

