-- ==== Sys2Proof/Laws/Memory.lean ====
section
/-! SUPPORT. The laws of the frame store: what a read gives after a write, that a write keeps the canonical form, and
what it means that every byte has been written. -/

namespace Sys2Proof.Machine

@[simp] theorem Memory.read_nil (i : Nat) : Memory.read [] i = none := rfl

theorem Memory.read_cons (j : Nat) (b : Byte) (m : Memory) (i : Nat) :
    Memory.read ((j, b) :: m) i = if i = j then some b else m.read i := rfl

/-- Everything a write does to what can be read. -/
theorem Memory.read_write (m : Memory) (i : Nat) (b : Byte) (j : Nat) :
    (m.write i b).read j = if j = i then some b else m.read j := by
  induction m with
  | nil => simp [Memory.write, Memory.read_cons]
  | cons cell m ih =>
    obtain ⟨k, c⟩ := cell
    by_cases hlt : i < k
    · simp [Memory.write, hlt, Memory.read_cons]
    · by_cases heq : i = k
      · subst heq
        by_cases hj : j = i <;> simp [Memory.write, Memory.read_cons, hj]
      · by_cases hj : j = k
        · subst hj
          simp [Memory.write, hlt, heq, Memory.read_cons, Ne.symm heq]
        · simp [Memory.write, hlt, heq, Memory.read_cons, ih, hj]

@[simp] theorem Memory.read_write_same (m : Memory) (i : Nat) (b : Byte) : (m.write i b).read i = some b := by
  simp [Memory.read_write]

theorem Memory.read_write_other (m : Memory) {i j : Nat} (b : Byte) (h : j ≠ i) :
    (m.write i b).read j = m.read j := by
  simp [Memory.read_write, h]

@[simp] theorem Memory.risingFrom_nil (lo : Nat) : Memory.risingFrom lo [] = true := rfl

theorem Memory.risingFrom_cons (lo j : Nat) (b : Byte) (m : Memory) :
    Memory.risingFrom lo ((j, b) :: m) = true ↔
      lo ≤ j ∧ j < Config.frameBytes ∧ Memory.risingFrom (j + 1) m = true := by
  simp [Memory.risingFrom, and_assoc]

/-- A write at a position of FRAME keeps the indices rising. -/
theorem Memory.risingFrom_write (m : Memory) (lo i : Nat) (b : Byte) (hlo : lo ≤ i) (hi : i < Config.frameBytes)
    (h : Memory.risingFrom lo m = true) : Memory.risingFrom lo (m.write i b) = true := by
  induction m generalizing lo with
  | nil => simp [Memory.write, Memory.risingFrom_cons, hlo, hi]
  | cons cell m ih =>
    obtain ⟨j, c⟩ := cell
    rw [Memory.risingFrom_cons] at h
    obtain ⟨hj, hj', hm⟩ := h
    by_cases hlt : i < j
    · simp [Memory.write, hlt, Memory.risingFrom_cons, hlo, hi, hj', hm]
    · by_cases heq : i = j
      · subst heq
        simp [Memory.write, Memory.risingFrom_cons, hlo, hi, hm]
      · have hrest := ih (j + 1) (by omega) hm
        simp [Memory.write, hlt, heq, Memory.risingFrom_cons, hj, hj', hrest]

/-- Every write of the frame store keeps its canonical form. -/
theorem Memory.write_wf (m : Memory) (i : Nat) (b : Byte) (hi : i < Config.frameBytes) (h : m.wf = true) :
    (m.write i b).wf = true :=
  Memory.risingFrom_write m 0 i b (Nat.zero_le i) hi h

/-- The store with nothing written is in canonical form. -/
@[simp] theorem Memory.wf_nil : Memory.wf [] = true := rfl

/-- In canonical form only positions of FRAME can be read. -/
theorem Memory.read_bounds (m : Memory) (lo : Nat) (h : Memory.risingFrom lo m = true) {i : Nat} {b : Byte}
    (hr : m.read i = some b) : lo ≤ i ∧ i < Config.frameBytes := by
  induction m generalizing lo with
  | nil => simp at hr
  | cons cell m ih =>
    obtain ⟨j, c⟩ := cell
    rw [Memory.risingFrom_cons] at h
    rw [Memory.read_cons] at hr
    by_cases hij : i = j
    · subst hij
      exact ⟨h.1, h.2.1⟩
    · simp only [hij, if_false] at hr
      have := ih (j + 1) h.2.2 hr
      exact ⟨by omega, this.2⟩

/-- The frame is whole when each of its bytes can be read. -/
theorem Memory.whole_iff (m : Memory) :
    m.whole = true ↔ ∀ i, i < Config.frameBytes → ∃ b, m.read i = some b := by
  simp [Memory.whole, Memory.marked, Option.isSome_iff_exists]

end Sys2Proof.Machine
end

