-- ==== Sys2Proof/Laws/State.lean ====
section
/-! SUPPORT. One lemma per field per named update of the state, each true by definition, so that no later proof unfolds
an update. -/

namespace Sys2Proof.Machine

/-! ## `State.respond` -/

@[simp] theorem State_respond_status (r : Response) (s : State) :
    (s.respond r).status = s.status := rfl

@[simp] theorem State_respond_cause (r : Response) (s : State) :
    (s.respond r).cause = s.cause := rfl

@[simp] theorem State_respond_winW (r : Response) (s : State) :
    (s.respond r).winW = s.winW := rfl

@[simp] theorem State_respond_winH (r : Response) (s : State) :
    (s.respond r).winH = s.winH := rfl

@[simp] theorem State_respond_scale (r : Response) (s : State) :
    (s.respond r).scale = s.scale := rfl

@[simp] theorem State_respond_colorOff (r : Response) (s : State) :
    (s.respond r).colorOff = s.colorOff := rfl

@[simp] theorem State_respond_colorOn (r : Response) (s : State) :
    (s.respond r).colorOn = s.colorOn := rfl

@[simp] theorem State_respond_outW (r : Response) (s : State) :
    (s.respond r).outW = s.outW := rfl

@[simp] theorem State_respond_outH (r : Response) (s : State) :
    (s.respond r).outH = s.outH := rfl

@[simp] theorem State_respond_pixLen (r : Response) (s : State) :
    (s.respond r).pixLen = s.pixLen := rfl

@[simp] theorem State_respond_frame (r : Response) (s : State) :
    (s.respond r).frame = s.frame := rfl

@[simp] theorem State_respond_pixbuf (r : Response) (s : State) :
    (s.respond r).pixbuf = s.pixbuf := rfl

@[simp] theorem State_respond_pending (r : Response) (s : State) :
    (s.respond r).pending = s.pending := rfl

@[simp] theorem State_respond_response (r : Response) (s : State) :
    (s.respond r).response = some r := rfl

/-! ## `State.withPending` -/

@[simp] theorem State_withPending_status (rest : List HostEvent) (s : State) :
    (s.withPending rest).status = s.status := rfl

@[simp] theorem State_withPending_cause (rest : List HostEvent) (s : State) :
    (s.withPending rest).cause = s.cause := rfl

@[simp] theorem State_withPending_winW (rest : List HostEvent) (s : State) :
    (s.withPending rest).winW = s.winW := rfl

@[simp] theorem State_withPending_winH (rest : List HostEvent) (s : State) :
    (s.withPending rest).winH = s.winH := rfl

@[simp] theorem State_withPending_scale (rest : List HostEvent) (s : State) :
    (s.withPending rest).scale = s.scale := rfl

@[simp] theorem State_withPending_colorOff (rest : List HostEvent) (s : State) :
    (s.withPending rest).colorOff = s.colorOff := rfl

@[simp] theorem State_withPending_colorOn (rest : List HostEvent) (s : State) :
    (s.withPending rest).colorOn = s.colorOn := rfl

@[simp] theorem State_withPending_outW (rest : List HostEvent) (s : State) :
    (s.withPending rest).outW = s.outW := rfl

@[simp] theorem State_withPending_outH (rest : List HostEvent) (s : State) :
    (s.withPending rest).outH = s.outH := rfl

@[simp] theorem State_withPending_pixLen (rest : List HostEvent) (s : State) :
    (s.withPending rest).pixLen = s.pixLen := rfl

@[simp] theorem State_withPending_frame (rest : List HostEvent) (s : State) :
    (s.withPending rest).frame = s.frame := rfl

@[simp] theorem State_withPending_pixbuf (rest : List HostEvent) (s : State) :
    (s.withPending rest).pixbuf = s.pixbuf := rfl

@[simp] theorem State_withPending_pending (rest : List HostEvent) (s : State) :
    (s.withPending rest).pending = rest := rfl

@[simp] theorem State_withPending_response (rest : List HostEvent) (s : State) :
    (s.withPending rest).response = s.response := rfl

/-! ## `refuseAccess` -/

@[simp] theorem refuseAccess_status (r : AccessFault) (s : State) :
    (refuseAccess r s).status = s.status := rfl

@[simp] theorem refuseAccess_cause (r : AccessFault) (s : State) :
    (refuseAccess r s).cause = s.cause := rfl

@[simp] theorem refuseAccess_winW (r : AccessFault) (s : State) :
    (refuseAccess r s).winW = s.winW := rfl

@[simp] theorem refuseAccess_winH (r : AccessFault) (s : State) :
    (refuseAccess r s).winH = s.winH := rfl

@[simp] theorem refuseAccess_scale (r : AccessFault) (s : State) :
    (refuseAccess r s).scale = s.scale := rfl

@[simp] theorem refuseAccess_colorOff (r : AccessFault) (s : State) :
    (refuseAccess r s).colorOff = s.colorOff := rfl

@[simp] theorem refuseAccess_colorOn (r : AccessFault) (s : State) :
    (refuseAccess r s).colorOn = s.colorOn := rfl

@[simp] theorem refuseAccess_outW (r : AccessFault) (s : State) :
    (refuseAccess r s).outW = s.outW := rfl

@[simp] theorem refuseAccess_outH (r : AccessFault) (s : State) :
    (refuseAccess r s).outH = s.outH := rfl

@[simp] theorem refuseAccess_pixLen (r : AccessFault) (s : State) :
    (refuseAccess r s).pixLen = s.pixLen := rfl

@[simp] theorem refuseAccess_frame (r : AccessFault) (s : State) :
    (refuseAccess r s).frame = s.frame := rfl

@[simp] theorem refuseAccess_pixbuf (r : AccessFault) (s : State) :
    (refuseAccess r s).pixbuf = s.pixbuf := rfl

@[simp] theorem refuseAccess_pending (r : AccessFault) (s : State) :
    (refuseAccess r s).pending = s.pending := rfl

@[simp] theorem refuseAccess_response (r : AccessFault) (s : State) :
    (refuseAccess r s).response = some (.error r) := rfl

/-! ## `raiseCommandFault` -/

@[simp] theorem raiseCommandFault_status (c : CommandFault) (s : State) :
    (raiseCommandFault c s).status = setErr s.status := rfl

@[simp] theorem raiseCommandFault_cause (c : CommandFault) (s : State) :
    (raiseCommandFault c s).cause = c.code := rfl

@[simp] theorem raiseCommandFault_winW (c : CommandFault) (s : State) :
    (raiseCommandFault c s).winW = s.winW := rfl

@[simp] theorem raiseCommandFault_winH (c : CommandFault) (s : State) :
    (raiseCommandFault c s).winH = s.winH := rfl

@[simp] theorem raiseCommandFault_scale (c : CommandFault) (s : State) :
    (raiseCommandFault c s).scale = s.scale := rfl

@[simp] theorem raiseCommandFault_colorOff (c : CommandFault) (s : State) :
    (raiseCommandFault c s).colorOff = s.colorOff := rfl

@[simp] theorem raiseCommandFault_colorOn (c : CommandFault) (s : State) :
    (raiseCommandFault c s).colorOn = s.colorOn := rfl

@[simp] theorem raiseCommandFault_outW (c : CommandFault) (s : State) :
    (raiseCommandFault c s).outW = s.outW := rfl

@[simp] theorem raiseCommandFault_outH (c : CommandFault) (s : State) :
    (raiseCommandFault c s).outH = s.outH := rfl

@[simp] theorem raiseCommandFault_pixLen (c : CommandFault) (s : State) :
    (raiseCommandFault c s).pixLen = s.pixLen := rfl

@[simp] theorem raiseCommandFault_frame (c : CommandFault) (s : State) :
    (raiseCommandFault c s).frame = s.frame := rfl

@[simp] theorem raiseCommandFault_pixbuf (c : CommandFault) (s : State) :
    (raiseCommandFault c s).pixbuf = s.pixbuf := rfl

@[simp] theorem raiseCommandFault_pending (c : CommandFault) (s : State) :
    (raiseCommandFault c s).pending = s.pending := rfl

@[simp] theorem raiseCommandFault_response (c : CommandFault) (s : State) :
    (raiseCommandFault c s).response = some .ok := rfl

/-! ## `clearCommandFault` -/

@[simp] theorem clearCommandFault_status (s : State) :
    (clearCommandFault s).status = clearErr s.status := rfl

@[simp] theorem clearCommandFault_cause (s : State) :
    (clearCommandFault s).cause = 0#32 := rfl

@[simp] theorem clearCommandFault_winW (s : State) :
    (clearCommandFault s).winW = s.winW := rfl

@[simp] theorem clearCommandFault_winH (s : State) :
    (clearCommandFault s).winH = s.winH := rfl

@[simp] theorem clearCommandFault_scale (s : State) :
    (clearCommandFault s).scale = s.scale := rfl

@[simp] theorem clearCommandFault_colorOff (s : State) :
    (clearCommandFault s).colorOff = s.colorOff := rfl

@[simp] theorem clearCommandFault_colorOn (s : State) :
    (clearCommandFault s).colorOn = s.colorOn := rfl

@[simp] theorem clearCommandFault_outW (s : State) :
    (clearCommandFault s).outW = s.outW := rfl

@[simp] theorem clearCommandFault_outH (s : State) :
    (clearCommandFault s).outH = s.outH := rfl

@[simp] theorem clearCommandFault_pixLen (s : State) :
    (clearCommandFault s).pixLen = s.pixLen := rfl

@[simp] theorem clearCommandFault_frame (s : State) :
    (clearCommandFault s).frame = s.frame := rfl

@[simp] theorem clearCommandFault_pixbuf (s : State) :
    (clearCommandFault s).pixbuf = s.pixbuf := rfl

@[simp] theorem clearCommandFault_pending (s : State) :
    (clearCommandFault s).pending = s.pending := rfl

@[simp] theorem clearCommandFault_response (s : State) :
    (clearCommandFault s).response = some .ok := rfl

/-! ## `expanded` -/

@[simp] theorem expanded_status (k : Nat) (s : State) :
    (expanded k s).status = s.status := rfl

@[simp] theorem expanded_cause (k : Nat) (s : State) :
    (expanded k s).cause = s.cause := rfl

@[simp] theorem expanded_winW (k : Nat) (s : State) :
    (expanded k s).winW = s.winW := rfl

@[simp] theorem expanded_winH (k : Nat) (s : State) :
    (expanded k s).winH = s.winH := rfl

@[simp] theorem expanded_scale (k : Nat) (s : State) :
    (expanded k s).scale = s.scale := rfl

@[simp] theorem expanded_colorOff (k : Nat) (s : State) :
    (expanded k s).colorOff = s.colorOff := rfl

@[simp] theorem expanded_colorOn (k : Nat) (s : State) :
    (expanded k s).colorOn = s.colorOn := rfl

@[simp] theorem expanded_outW (k : Nat) (s : State) :
    (expanded k s).outW = BitVec.ofNat 32 (Config.srcW * k) := rfl

@[simp] theorem expanded_outH (k : Nat) (s : State) :
    (expanded k s).outH = BitVec.ofNat 32 (Config.srcH * k) := rfl

@[simp] theorem expanded_pixLen (k : Nat) (s : State) :
    (expanded k s).pixLen = BitVec.ofNat 32 (k * k * Config.srcW * Config.srcH) := rfl

@[simp] theorem expanded_frame (k : Nat) (s : State) :
    (expanded k s).frame = s.frame := rfl

@[simp] theorem expanded_pixbuf (k : Nat) (s : State) :
    (expanded k s).pixbuf = expandScan s.frame s.colorOff s.colorOn k := rfl

@[simp] theorem expanded_pending (k : Nat) (s : State) :
    (expanded k s).pending = s.pending := rfl

@[simp] theorem expanded_response (k : Nat) (s : State) :
    (expanded k s).response = some .ok := rfl

/-! ## `takeReset` -/

@[simp] theorem takeReset_status (s : State) :
    (takeReset s).status = 0#32 := rfl

@[simp] theorem takeReset_cause (s : State) :
    (takeReset s).cause = 0#32 := rfl

@[simp] theorem takeReset_winW (s : State) :
    (takeReset s).winW = 0#32 := rfl

@[simp] theorem takeReset_winH (s : State) :
    (takeReset s).winH = 0#32 := rfl

@[simp] theorem takeReset_scale (s : State) :
    (takeReset s).scale = 0#32 := rfl

@[simp] theorem takeReset_colorOff (s : State) :
    (takeReset s).colorOff = Config.params.palOffReset := rfl

@[simp] theorem takeReset_colorOn (s : State) :
    (takeReset s).colorOn = Config.params.palOnReset := rfl

@[simp] theorem takeReset_outW (s : State) :
    (takeReset s).outW = 0#32 := rfl

@[simp] theorem takeReset_outH (s : State) :
    (takeReset s).outH = 0#32 := rfl

@[simp] theorem takeReset_pixLen (s : State) :
    (takeReset s).pixLen = 0#32 := rfl

@[simp] theorem takeReset_frame (s : State) :
    (takeReset s).frame = [] := rfl

@[simp] theorem takeReset_pixbuf (s : State) :
    (takeReset s).pixbuf = [] := rfl

@[simp] theorem takeReset_pending (s : State) :
    (takeReset s).pending = s.pending := rfl

@[simp] theorem takeReset_response (s : State) :
    (takeReset s).response = none := rfl

/-! ## `State.reset` -/

@[simp] theorem State_reset_status : State.reset.status = 0#32 := rfl

@[simp] theorem State_reset_cause : State.reset.cause = 0#32 := rfl

@[simp] theorem State_reset_winW : State.reset.winW = 0#32 := rfl

@[simp] theorem State_reset_winH : State.reset.winH = 0#32 := rfl

@[simp] theorem State_reset_scale : State.reset.scale = 0#32 := rfl

@[simp] theorem State_reset_colorOff : State.reset.colorOff = Config.params.palOffReset := rfl

@[simp] theorem State_reset_colorOn : State.reset.colorOn = Config.params.palOnReset := rfl

@[simp] theorem State_reset_outW : State.reset.outW = 0#32 := rfl

@[simp] theorem State_reset_outH : State.reset.outH = 0#32 := rfl

@[simp] theorem State_reset_pixLen : State.reset.pixLen = 0#32 := rfl

@[simp] theorem State_reset_frame : State.reset.frame = [] := rfl

@[simp] theorem State_reset_pixbuf : State.reset.pixbuf = [] := rfl

@[simp] theorem State_reset_pending : State.reset.pending = [] := rfl

@[simp] theorem State_reset_response : State.reset.response = none := rfl

end Sys2Proof.Machine
end

