-- ==== Sys2Proof/Laws/Expander.lean ====
section
/-! SUPPORT. The scale check, the lengths of what the scan makes, and everything `EXPAND` can do. -/

namespace Sys2Proof.Machine

/-- The scale check passes exactly the scales from 1 to `MAX_SCALE` (41 R141). -/
theorem checkScale_eq_none (maxScale s : Nat) : checkScale maxScale s = none ↔ 1 ≤ s ∧ s ≤ maxScale := by
  unfold checkScale
  split_ifs <;> simp <;> omega

theorem checkScale_eq_some {maxScale s : Nat} {c : CommandFault} (h : checkScale maxScale s = some c) :
    (c = .scaleZero ∧ s = 0) ∨ (c = .scaleTooLarge ∧ s > maxScale) := by
  unfold checkScale at h
  split_ifs at h with h0 h1
  · exact .inl ⟨(Option.some.inj h).symm, h0⟩
  · exact .inr ⟨(Option.some.inj h).symm, h1⟩

/-- Segments of equal length put one after the other. -/
theorem length_flatMap_eq {α β : Type} (l : List α) (f : α → List β) (c : Nat) (h : ∀ x, (f x).length = c) :
    (l.flatMap f).length = l.length * c := by
  induction l with
  | nil => simp
  | cons x l ih => simp [ih, h, Nat.succ_mul, Nat.add_comm]

@[simp] theorem length_expandByte (off on : Word) (s : Nat) (b : Byte) : (expandByte off on s b).length = 8 * s := by
  rw [expandByte, length_flatMap_eq _ _ s (by simp), List.length_range]

@[simp] theorem length_expandRow (m : Memory) (off on : Word) (s sy : Nat) :
    (expandRow m off on s sy).length = Config.srcW * s := by
  rw [expandRow, length_flatMap_eq _ _ (8 * s) (by simp), List.length_range, ← Nat.mul_assoc]
  rfl

/-- The scan makes `s² × SRC_W × SRC_H` words (41 R142). -/
@[simp] theorem length_expandScan (m : Memory) (off on : Word) (s : Nat) :
    (expandScan m off on s).length = s * s * Config.srcW * Config.srcH := by
  rw [expandScan, length_flatMap_eq _ _ (s * (Config.srcW * s)) (by simp), List.length_range]
  ring

/-- Everything `EXPAND` can do: take the fault of the scale check, rebuild the pixel buffer, or be without meaning
because the frame is not whole. -/
theorem expandWith_cases (P : Config.Params) (s : State) :
    (∃ c, checkScale P.maxScale s.scale.toNat = some c ∧ expandWith P s = .next (raiseCommandFault c s)) ∨
      (checkScale P.maxScale s.scale.toNat = none ∧ s.frame.whole = true ∧
        expandWith P s = .next (expanded s.scale.toNat s)) ∨
      (checkScale P.maxScale s.scale.toNat = none ∧ s.frame.whole = false ∧
        expandWith P s = .fault .unwrittenFrame) := by
  unfold expandWith
  cases h : checkScale P.maxScale s.scale.toNat with
  | some c => exact .inl ⟨c, rfl, rfl⟩
  | none =>
    cases hw : s.frame.whole with
    | true => exact .inr (.inl ⟨rfl, rfl, rfl⟩)
    | false => exact .inr (.inr ⟨rfl, rfl, rfl⟩)

end Sys2Proof.Machine
end

