-- ==== Sys2Proof/Laws/PerInstr.lean ====
section
/-! SUPPORT. Facts about every instruction as syntax, one lemma per constructor of `Instr`. -/

namespace Sys2Proof.Laws

/-- The transaction that asks for a well-formed instruction holds no bits beyond its tuple (20_memory R65; 30_encoding
R91). -/
def EncodeWellFormed.Statement (i : Instr) : Prop := i.wellFormed = true → (encode i).wellFormed = true

theorem commandWrite_wellFormed (w : Word) : (commandWrite w).wellFormed = true := by
  exact decide_eq_true w.isLt

theorem EncodeWellFormed.calcscale : EncodeWellFormed.Statement .calcscale := fun _ => commandWrite_wellFormed _
theorem EncodeWellFormed.expand : EncodeWellFormed.Statement .expand := fun _ => commandWrite_wellFormed _
theorem EncodeWellFormed.clrerr : EncodeWellFormed.Statement .clrerr := fun _ => commandWrite_wellFormed _
theorem EncodeWellFormed.cmdwordReserved (w : Word) : EncodeWellFormed.Statement (.cmdwordReserved w) :=
  fun _ => commandWrite_wellFormed w
theorem EncodeWellFormed.rdreg (n : Reg) : EncodeWellFormed.Statement (.rdreg n) := fun _ => rfl
theorem EncodeWellFormed.wrreg (n : Reg) (v : Word) : EncodeWellFormed.Statement (.wrreg n v) := fun _ => by
  exact decide_eq_true v.isLt
theorem EncodeWellFormed.rdframe (i : Byte) : EncodeWellFormed.Statement (.rdframe i) := fun _ => rfl
theorem EncodeWellFormed.wrframe (i b : Byte) : EncodeWellFormed.Statement (.wrframe i b) := fun _ => by
  have := b.isLt
  simp [Transaction.wellFormed, encode, Size.bytes]
  omega
theorem EncodeWellFormed.rdpix (k : Nat) : EncodeWellFormed.Statement (.rdpix k) := fun _ => rfl

end Sys2Proof.Laws
end

