-- ==== Sys2Proof/Laws/Registers.lean ====
section
/-! SUPPORT. What the register file does: which registers a host write stores into, and what is read afterwards. -/

namespace Sys2Proof.Machine

/-- The registers a host write stores into (20_memory R67). -/
theorem storeRegister_isSome (n : Reg) (v : Word) (s : State) :
    (storeRegister n v s).isSome = true ↔
      n = .winW ∨ n = .winH ∨ n = .scale ∨ n = .colorOff ∨ n = .colorOn := by
  cases n <;> simp [storeRegister]

/-- Everything a store into a register does: the register reads as the value, every other as before, and nothing outside
the register file changes. -/
theorem storeRegister_spec {n : Reg} {v : Word} {s s' : State} (h : storeRegister n v s = some s') :
    (∀ P m, readRegister P m s' = if m = n then v else readRegister P m s) ∧
      s'.frame = s.frame ∧ s'.pixbuf = s.pixbuf ∧ s'.pending = s.pending ∧ s'.response = s.response := by
  cases n <;> simp only [storeRegister, Option.some.injEq, reduceCtorEq] at h <;> subst h <;>
    exact ⟨fun P m => by cases m <;> rfl, rfl, rfl, rfl, rfl⟩

/-- A store leaves the status, the cause and the geometry of the pixel buffer alone. -/
theorem storeRegister_keeps {n : Reg} {v : Word} {s s' : State} (h : storeRegister n v s = some s') :
    s'.status = s.status ∧ s'.cause = s.cause ∧ s'.outW = s.outW ∧ s'.outH = s.outH ∧ s'.pixLen = s.pixLen := by
  cases n <;> simp only [storeRegister, Option.some.injEq, reduceCtorEq] at h <;> subst h <;>
    exact ⟨rfl, rfl, rfl, rfl, rfl⟩

@[simp] theorem setErr_legal (w : Word) (h : w = 0#32 ∨ w = 1#32) : setErr w = 1#32 := by
  rcases h with rfl | rfl <;> rfl

@[simp] theorem clearErr_legal (w : Word) (h : w = 0#32 ∨ w = 1#32) : clearErr w = 0#32 := by
  rcases h with rfl | rfl <;> rfl

/-- Setting a flag that is set changes nothing. -/
theorem setErr_of_err {w : Word} (h : w.getLsbD 0 = true) : setErr w = w := by
  apply BitVec.eq_of_getLsbD_eq
  intro i _
  simp only [setErr, BitVec.getLsbD_or]
  by_cases h0 : i = 0
  · subst h0; simp [h]
  · simp [BitVec.getLsbD_one, h0]

/-- A command fault while `ERR` is 1 (60_exceptions R193). -/
theorem raiseCommandFault_of_err (c : CommandFault) {s : State} (h : s.status.getLsbD 0 = true) :
    raiseCommandFault c s = { s with cause := c.code, response := some .ok } := by
  simp only [raiseCommandFault, setErr_of_err h]

/-- A command fault sets `ERR`. -/
theorem raiseCommandFault_err (c : CommandFault) (s : State) : (raiseCommandFault c s).err = true := by
  simp [State.err, setErr]

/-- The return from a command fault clears `ERR`. -/
theorem clearCommandFault_err (s : State) : (clearCommandFault s).err = false := by
  simp [State.err, clearErr]

end Sys2Proof.Machine
end

