-- ==== Sys2Proof/Laws/ScaleCalc.lean ====
section
/-! SUPPORT. The integer square root is the one of 00_scope R9, and what the scale calculator answers. -/

namespace Sys2Proof.Machine

theorem isqrtDigits_spec (fuel n : Nat) (h : n < 4 ^ fuel) :
    isqrtDigits fuel n * isqrtDigits fuel n ≤ n ∧
      n < (isqrtDigits fuel n + 1) * (isqrtDigits fuel n + 1) := by
  induction fuel generalizing n with
  | zero =>
    have : n = 0 := by simpa using h
    subst this
    simp [isqrtDigits]
  | succ fuel ih =>
    by_cases hn : n = 0
    · subst hn
      simp [isqrtDigits]
    · have hq : n / 4 < 4 ^ fuel := by
        rw [pow_succ] at h
        omega
      obtain ⟨hlo, hhi⟩ := ih (n / 4) hq
      simp only [isqrtDigits, hn, if_false]
      generalize isqrtDigits fuel (n / 4) = r at hlo hhi ⊢
      have h4 : 4 * (r * r) ≤ n := by omega
      have h5 : n < 4 * ((r + 1) * (r + 1)) := by omega
      split
      · rename_i hle
        exact ⟨hle, by nlinarith⟩
      · rename_i hle
        exact ⟨by nlinarith, by omega⟩

/-- `isqrt(n)² ≤ n < (isqrt(n) + 1)²` (00_scope R9). -/
theorem isqrt_spec (n : Nat) : isqrt n * isqrt n ≤ n ∧ n < (isqrt n + 1) * (isqrt n + 1) := by
  refine isqrtDigits_spec _ n ?_
  calc n < 2 ^ (n.log2 + 1) := Nat.lt_log2_self
    _ ≤ 2 ^ (2 * (n.log2 / 2 + 1)) := Nat.pow_le_pow_right (by omega) (by omega)
    _ = 4 ^ (n.log2 / 2 + 1) := by rw [pow_mul]; norm_num

/-- The integer square root is the only number with that property. -/
theorem isqrt_unique {n r : Nat} (hlo : r * r ≤ n) (hhi : n < (r + 1) * (r + 1)) : isqrt n = r := by
  obtain ⟨h1, h2⟩ := isqrt_spec n
  have hle : isqrt n ≤ r := by
    by_contra hc
    have : (r + 1) * (r + 1) ≤ isqrt n * isqrt n := Nat.mul_self_le_mul_self (by omega)
    omega
  have hge : r ≤ isqrt n := by
    by_contra hc
    have : (isqrt n + 1) * (isqrt n + 1) ≤ r * r := Nat.mul_self_le_mul_self (by omega)
    omega
  omega

theorem le_isqrt {n r : Nat} : r ≤ isqrt n ↔ r * r ≤ n := by
  obtain ⟨h1, h2⟩ := isqrt_spec n
  constructor
  · intro h
    exact (Nat.mul_self_le_mul_self h).trans h1
  · intro h
    by_contra hc
    have : (isqrt n + 1) * (isqrt n + 1) ≤ r * r := Nat.mul_self_le_mul_self (by omega)
    omega

/-- What `computeScale` answers (40 R121): a failure for a source of no area, else the integer root of the quotient. -/
theorem computeScale_eq (area srcArea : Nat) :
    computeScale area srcArea = if srcArea = 0 then none else some (isqrt (area / srcArea)) := rfl

/-- What `CALCSCALE` leaves when the source has an area. -/
theorem calcscaleWith_eq (srcW srcH : Nat) (s : State) (h : srcW * srcH ≠ 0) :
    calcscaleWith srcW srcH s =
      { s with scale := BitVec.ofNat 32 (isqrt (windowArea s / (srcW * srcH))), response := some .ok } := by
  simp [calcscaleWith, computeScale_eq, h]

end Sys2Proof.Machine
end

