-- ==== Sys2Proof/Laws/Step.lean ====
section
/-! SUPPORT. Everything an access operation, a command word and a step can do. -/

namespace Sys2Proof.Machine

/-- Everything a command word can do (30_encoding R93). -/
theorem executeCommand_cases (w : Word) (s : State) :
    (w = 1#32 ∧ executeCommand w s = exec .calcscale s) ∨ (w = 2#32 ∧ executeCommand w s = exec .expand s) ∨
      (w = 3#32 ∧ executeCommand w s = exec .clrerr s) ∨
      (w ≠ 1#32 ∧ w ≠ 2#32 ∧ w ≠ 3#32 ∧ executeCommand w s = exec (.cmdwordReserved w) s) := by
  unfold executeCommand
  rcases commandOf_cases w with ⟨h, hc⟩ | ⟨h, hc⟩ | ⟨h, hc⟩ | ⟨h1, h2, h3, hc⟩ <;> rw [hc]
  · exact .inl ⟨h, rfl⟩
  · exact .inr (.inl ⟨h, rfl⟩)
  · exact .inr (.inr (.inl ⟨h, rfl⟩))
  · exact .inr (.inr (.inr ⟨h1, h2, h3, rfl⟩))

/-- Everything `WRREG` can do (20_memory R67). -/
theorem execWrreg_cases (n : Reg) (v : Word) (s : State) :
    (n = .cmd ∧ execWrreg n v s = executeCommand v s) ∨
      (∃ s', storeRegister n v s = some s' ∧ execWrreg n v s = .next (s'.respond .ok)) ∨
      (n ≠ .cmd ∧ storeRegister n v s = none ∧ execWrreg n v s = .next (refuseAccess .readOnly s)) := by
  unfold execWrreg
  by_cases hn : n = .cmd
  · exact .inl ⟨hn, by simp [hn]⟩
  · cases hs : storeRegister n v s with
    | some s' => exact .inr (.inl ⟨s', rfl, by simp [hn]⟩)
    | none => exact .inr (.inr ⟨hn, rfl, by simp [hn]⟩)

/-- Everything `RDFRAME` can do (20_memory R68). -/
theorem execRdframe_cases (i : Byte) (s : State) :
    (∃ b, s.frame.read i.toNat = some b ∧ execRdframe i s = .next (s.respond (.okByte b))) ∨
      (s.frame.read i.toNat = none ∧ execRdframe i s = .fault .unwrittenFrame) := by
  unfold execRdframe
  cases h : s.frame.read i.toNat with
  | some b => exact .inl ⟨b, rfl, rfl⟩
  | none => exact .inr ⟨rfl, rfl⟩

/-- Everything `RDPIX` can do (20_memory R70): it answers a word or `PixRange`. -/
theorem execRdpix_cases (k : Nat) (s : State) :
    (∃ w, k < s.pixLen.toNat ∧ s.pixbuf[k]? = some w ∧ execRdpix k s = .next (s.respond (.okWord w))) ∨
      ((s.pixLen.toNat ≤ k ∨ s.pixbuf[k]? = none) ∧ execRdpix k s = .next (refuseAccess .pixRange s)) := by
  unfold execRdpix
  by_cases hk : s.pixLen.toNat ≤ k
  · exact .inr ⟨.inl hk, by simp [hk]⟩
  · cases hw : s.pixbuf[k]? with
    | some w => exact .inl ⟨w, by omega, rfl, by simp [hk]⟩
    | none => exact .inr ⟨.inr rfl, by simp [hk]⟩

/-- Everything a step that goes on can do. -/
theorem step_cases {s t : State} (h : step s = .next t) :
    (s.pending = [] ∧ t = s) ∨
      (∃ rest, s.pending = .reset :: rest ∧ t = takeReset (s.withPending rest)) ∨
      (∃ tr rest i, s.pending = .bus tr :: rest ∧ decode tr = .ok i ∧ exec i (s.withPending rest) = .next t) ∨
      (∃ tr rest r, s.pending = .bus tr :: rest ∧ decode tr = .refused r ∧ t = refuseAccess r (s.withPending rest)) := by
  unfold step at h
  split at h
  · rename_i hp
    exact .inl ⟨hp, (Host.Outcome.next.inj h).symm⟩
  · rename_i rest hp
    exact .inr (.inl ⟨rest, hp, (Host.Outcome.next.inj h).symm⟩)
  · rename_i tr rest hp
    split at h
    · rename_i i hd
      exact .inr (.inr (.inl ⟨tr, rest, i, hp, hd, h⟩))
    · rename_i r hd
      exact .inr (.inr (.inr ⟨tr, rest, r, hp, hd, (Host.Outcome.next.inj h).symm⟩))

/-- The forms a next state of an operation takes: only a response, a fault taken or returned from, a register stored,
the scale computed, the buffer rebuilt, or a frame byte written. -/
theorem exec_next_cases {i : Instr} {s t : State} (h : exec i s = .next t) :
    (∃ r, t = s.respond r) ∨ (∃ c, t = raiseCommandFault c s) ∨
      (t = clearCommandFault s ∧ (i = .clrerr ∨ i = .wrreg .cmd 3#32)) ∨
      (∃ n v s', storeRegister n v s = some s' ∧ i = .wrreg n v ∧ t = s'.respond .ok) ∨
      (t = calcscaleWith Config.srcW Config.srcH s ∧ (i = .calcscale ∨ i = .wrreg .cmd 1#32)) ∨
      (t = expanded s.scale.toNat s ∧ (i = .expand ∨ i = .wrreg .cmd 2#32) ∧
        checkScale Config.params.maxScale s.scale.toNat = none ∧ s.frame.whole = true) ∨
      (∃ j b, i = .wrframe j b ∧ t = { s with frame := s.frame.write j.toNat b, response := some .ok }) := by
  have hexp : ∀ j : Instr, (j = .expand ∨ j = .wrreg .cmd 2#32) → exec .expand s = .next t →
      (∃ c, t = raiseCommandFault c s) ∨
        (t = expanded s.scale.toNat s ∧ (j = .expand ∨ j = .wrreg .cmd 2#32) ∧
          checkScale Config.params.maxScale s.scale.toNat = none ∧ s.frame.whole = true) := by
    intro j hj he
    simp only [exec, execExpand] at he
    rcases expandWith_cases Config.params s with ⟨c, _, hc⟩ | ⟨hn, hw, hc⟩ | ⟨_, _, hc⟩ <;> rw [hc] at he
    · exact .inl ⟨c, (Host.Outcome.next.inj he).symm⟩
    · exact .inr ⟨(Host.Outcome.next.inj he).symm, hj, hn, hw⟩
    · cases he
  cases i with
  | calcscale =>
    simp only [exec, execCalcscale, Host.Outcome.next.injEq] at h
    exact .inr (.inr (.inr (.inr (.inl ⟨h.symm, .inl rfl⟩))))
  | expand =>
    rcases hexp .expand (.inl rfl) h with hr | hr
    · exact .inr (.inl hr)
    · exact .inr (.inr (.inr (.inr (.inr (.inl hr)))))
  | clrerr =>
    simp only [exec, execClrerr, Host.Outcome.next.injEq] at h
    exact .inr (.inr (.inl ⟨h.symm, .inl rfl⟩))
  | cmdwordReserved w =>
    simp only [exec, execCmdwordReserved, Host.Outcome.next.injEq] at h
    exact .inr (.inl ⟨_, h.symm⟩)
  | rdreg n =>
    simp only [exec, execRdreg, Host.Outcome.next.injEq] at h
    exact .inl ⟨_, h.symm⟩
  | wrreg n v =>
    simp only [exec] at h
    rcases execWrreg_cases n v s with ⟨rfl, hx⟩ | ⟨s', hs, hx⟩ | ⟨_, _, hx⟩
    · rw [hx] at h
      rcases executeCommand_cases v s with ⟨rfl, hc⟩ | ⟨rfl, hc⟩ | ⟨rfl, hc⟩ | ⟨_, _, _, hc⟩ <;> rw [hc] at h
      · simp only [exec, execCalcscale, Host.Outcome.next.injEq] at h
        exact .inr (.inr (.inr (.inr (.inl ⟨h.symm, .inr rfl⟩))))
      · rcases hexp _ (.inr rfl) h with hr | hr
        · exact .inr (.inl hr)
        · exact .inr (.inr (.inr (.inr (.inr (.inl hr)))))
      · simp only [exec, execClrerr, Host.Outcome.next.injEq] at h
        exact .inr (.inr (.inl ⟨h.symm, .inr rfl⟩))
      · simp only [exec, execCmdwordReserved, Host.Outcome.next.injEq] at h
        exact .inr (.inl ⟨_, h.symm⟩)
    · rw [hx, Host.Outcome.next.injEq] at h
      exact .inr (.inr (.inr (.inl ⟨n, v, s', hs, rfl, h.symm⟩)))
    · rw [hx, Host.Outcome.next.injEq] at h
      exact .inl ⟨_, h.symm⟩
  | rdframe j =>
    simp only [exec] at h
    rcases execRdframe_cases j s with ⟨b, _, hx⟩ | ⟨_, hx⟩ <;> rw [hx] at h
    · exact .inl ⟨_, (Host.Outcome.next.inj h).symm⟩
    · cases h
  | wrframe j b =>
    simp only [exec, execWrframe, Host.Outcome.next.injEq] at h
    exact .inr (.inr (.inr (.inr (.inr (.inr ⟨j, b, rfl, h.symm⟩)))))
  | rdpix k =>
    simp only [exec] at h
    rcases execRdpix_cases k s with ⟨w, _, _, hx⟩ | ⟨_, hx⟩ <;> rw [hx, Host.Outcome.next.injEq] at h <;>
      exact .inl ⟨_, h.symm⟩

end Sys2Proof.Machine
end

