-- ==== Sys2Proof/Tests/Slice0.lean ====
section
/-! SUPPORT. Tests. Expected values are the spec's: 95_test_vectors (named at each), 30_encoding, or worked out by hand
from the rule named. After them, for every statement with hypotheses, a concrete state and operands that meet them. -/

namespace Sys2Proof.Tests

open Sys2Proof.Machine Sys2Proof.Safety

/-! ## Helpers -/

/-- The parameters of 95_test_vectors part P: `MAX_SCALE` = 4; two different colours. -/
def P4 : Config.Params := ⟨3, 0x11#32, 0x22#32⟩

/-- A whole frame, byte `i` being `f i`. -/
def frameOf (f : Nat → Byte) : Memory := (List.range 256).map fun i => (i, f i)

/-- A whole frame with one byte that may be other than 0: the vectors' `F{i: b}`. -/
def frameWith (i : Nat) (b : Byte) : Memory := frameOf fun j => if j = i then b else 0#8

/-- A state with a whole frame and a scale, otherwise as `P4` resets. -/
def withFrame (m : Memory) (k : Word) : State := { State.resetAt P4 with frame := m, scale := k }

/-- The next state of a result; the reset state where there is none. -/
def after : Result → State
  | .next s => s
  | .fault _ => State.reset
  | .refused _ => State.reset

/-- Whether a result is a next state with a given response. -/
def answers (r : Response) : Result → Bool
  | .next s => decide (s.response = some r)
  | .fault _ => false
  | .refused _ => false

/-- Whether a result is the model fault of an unwritten frame. -/
def stopsUnwritten : Result → Bool
  | .next _ => false
  | .fault .unwrittenFrame => true
  | .refused _ => false

/-- The reset state with one transaction to come. -/
def asked (t : Transaction) : State := { State.reset with pending := [.bus t] }

/-! ## Well-formedness refuses ill-formed terms -/

theorem test_reserved_word_1_is_ill_formed : (Instr.cmdwordReserved 1#32).wellFormedAt P4 = false := by decide
theorem test_reserved_word_2_is_ill_formed : (Instr.cmdwordReserved 2#32).wellFormedAt P4 = false := by decide
theorem test_reserved_word_3_is_ill_formed : (Instr.cmdwordReserved 3#32).wellFormedAt P4 = false := by decide
theorem test_pixel_beyond_the_buffer_is_ill_formed :
    (Instr.rdpix 32768).wellFormedAt P4 = false ∧ (Instr.rdpix 32767).wellFormedAt P4 = true := by decide
theorem test_read_with_data_is_ill_formed : (Transaction.mk .read .four 0#32 1#32).wellFormed = false := by decide
theorem test_wide_byte_write_is_ill_formed : (Transaction.mk .write .one 0x100#32 0x100#32).wellFormed = false := by
  decide

/-! ## Decoding of words written out from 30_encoding R91, R94 -/

theorem test_decode_calcscale : decode ⟨.write, .four, 0#32, 0b00000000000000000000000000000001#32⟩ = .ok .calcscale := by
  decide
theorem test_decode_expand : decode ⟨.write, .four, 0#32, 0b00000000000000000000000000000010#32⟩ = .ok .expand := by
  decide
theorem test_decode_clrerr : decode ⟨.write, .four, 0#32, 0b00000000000000000000000000000011#32⟩ = .ok .clrerr := by
  decide
theorem test_decode_reserved :
    decode ⟨.write, .four, 0#32, 0b10000000000000000000000000000011#32⟩ = .ok (.cmdwordReserved 0x80000003#32) := by
  decide
theorem test_decode_rdreg : decode ⟨.read, .four, 0b110100#32, 0#32⟩ = .ok (.rdreg .maxScale) := by decide
theorem test_decode_wrreg : decode ⟨.write, .four, 0b100100#32, 0xffffff#32⟩ = .ok (.wrreg .colorOn 0xffffff#32) := by
  decide
theorem test_decode_rdframe : decode ⟨.read, .one, 0b100001000#32, 0#32⟩ = .ok (.rdframe 8#8) := by decide
theorem test_decode_wrframe : decode ⟨.write, .one, 0b111111111#32, 0x01#32⟩ = .ok (.wrframe 255#8 0x01#8) := by decide
theorem test_decode_rdpix : decode ⟨.read, .four, 0b100000000000000001100#32, 0#32⟩ = .ok (.rdpix 3) := by decide

/-- The match and mask of the opcode table's RDREG and WRREG rows, and of RDFRAME and WRFRAME. -/
theorem test_offsets_match_the_table :
    (∀ n : Reg, n.offset &&& 0xFFFFFFC3#32 = 0x00000000#32) ∧
      (∀ i : Byte, frameOffset i &&& 0xFFFFFF00#32 = 0x00000100#32) :=
  ⟨fun n => by cases n <;> decide, by decide +kernel⟩

/-- V-AC11 to V-AC27: the reason of every refusal that decoding makes. -/
theorem test_refusals_of_V_AC :
    decodeAt P4 ⟨.read, .four, 0x38#32, 0#32⟩ = .refused .unmapped ∧
      decodeAt P4 ⟨.read, .four, 0x3c#32, 0#32⟩ = .refused .unmapped ∧
      decodeAt P4 ⟨.read, .two, 0x00#32, 0#32⟩ = .refused .badSize ∧
      decodeAt P4 ⟨.read, .one, 0x04#32, 0#32⟩ = .refused .badSize ∧
      decodeAt P4 ⟨.read, .four, 0x05#32, 0#32⟩ = .refused .misaligned ∧
      decodeAt P4 ⟨.write, .four, 0x100#32, 0#32⟩ = .refused .badSize ∧
      decodeAt P4 ⟨.read, .four, 0x1fe#32, 0#32⟩ = .refused .badSize ∧
      decodeAt P4 ⟨.read, .one, 0x200#32, 0#32⟩ = .refused .unmapped ∧
      decodeAt P4 ⟨.read, .four, 0xffffc#32, 0#32⟩ = .refused .unmapped ∧
      decodeAt P4 ⟨.write, .four, 0x100000#32, 5#32⟩ = .refused .readOnly ∧
      decodeAt P4 ⟨.read, .one, 0x100000#32, 0#32⟩ = .refused .badSize ∧
      decodeAt P4 ⟨.read, .four, 0x100002#32, 0#32⟩ = .refused .misaligned ∧
      decodeAt P4 ⟨.read, .four, 0x11fffc#32, 0#32⟩ = .ok (.rdpix 32767) ∧
      decodeAt P4 ⟨.read, .four, 0x120000#32, 0#32⟩ = .refused .unmapped ∧
      decodeAt P4 ⟨.write, .four, 0x02#32, 2#32⟩ = .refused .misaligned ∧
      decodeAt P4 ⟨.write, .one, 0x00#32, 2#32⟩ = .refused .badSize := by decide

/-- Opcode-table words (notes/assumptions/6.md). -/
theorem test_table_words :
    decodeTableWord 32 1 = some .calcscale ∧ decodeTableWord 32 2 = some .expand ∧ decodeTableWord 32 3 = some .clrerr ∧
      decodeTableWord 32 0 = some (.rdreg .cmd) ∧ decodeTableWord 32 0x101 = some (.rdframe 1#8) ∧
      decodeTableWord 32 0x100004 = some (.rdpix 1) ∧ decodeTableWord 32 5 = some (.cmdwordReserved 5#32) := by decide

/-! ## One step of each operation -/

/-- V-SC2, V-SC4, V-SC10, V-SC13, V-SC25, by the area of the window. -/
theorem test_scale_vectors :
    computeScale (640 * 320) 2048 = some 10 ∧ computeScale (63 * 32) 2048 = some 0 ∧
      computeScale (191 * 96) 2048 = some 2 ∧ computeScale (0xFFFFFFFF * 0xFFFFFFFF) 2048 = some 94906265 ∧
      computeScale (1920 * 1080) 2048 = some 31 := by decide +kernel
/-- V-SC26: a computed scale leaves the error record alone. -/
theorem test_calcscale_keeps_the_error_record :
    (after (exec .calcscale { State.resetAt P4 with winW := 640#32, winH := 320#32, status := 1#32, cause := 3#32 })) =
      { State.resetAt P4 with
        winW := 640#32
        winH := 320#32
        status := 1#32
        cause := 3#32
        scale := 10#32
        response := some .ok } := by decide +kernel
/-- V-EX6: a 2 × 2 block. -/
theorem test_expand_block :
    (let t := after (expandWith P4 (withFrame (frameWith 0 0x80#8) 2#32))
     ((t.pixbuf[0]?, t.pixbuf[1]?, t.pixbuf[2]?, t.pixbuf[128]?, t.pixbuf[130]?, t.pixbuf[256]?), t.outW, t.pixLen)) =
      ((some 0x22#32, some 0x22#32, some 0x11#32, some 0x22#32, some 0x11#32, some 0x11#32), 128#32, 8192#32) := by
  decide +kernel
/-- V-EX9: source pixel (9, 1) at scale 4. -/
theorem test_expand_row_and_column :
    (let t := after (expandWith P4 (withFrame (frameWith 9 0x40#8) 4#32))
     (t.pixbuf[1059]?, t.pixbuf[1060]?, t.pixbuf[1831]?, t.pixbuf[1832]?)) =
      (some 0x11#32, some 0x22#32, some 0x22#32, some 0x11#32) := by decide +kernel
/-- V-CT1. -/
theorem test_clrerr : after (exec .clrerr { State.resetAt P4 with status := 1#32, cause := 2#32 }) =
    { State.resetAt P4 with response := some .ok } := by decide
/-- V-CT8: the latest code wins. -/
theorem test_reserved_word :
    (after (exec (.cmdwordReserved 0#32) { State.reset with status := 1#32, cause := 2#32 })).cause = 4#32 := by decide
/-- V-AC3. -/
theorem test_rdreg : answers (.okWord 0x40#32) (exec (.rdreg .srcW) State.reset) = true := by decide
/-- V-AC7. -/
theorem test_wrreg_stores_all_bits : (after (exec (.wrreg .scale 0xFFFFFFFF#32) State.reset)).scale = 0xFFFFFFFF#32 := by
  decide
/-- V-AC16. -/
theorem test_wrreg_read_only : answers (.error .readOnly) (exec (.wrreg .srcW 32#32) State.reset) = true := by decide
/-- V-AC9. -/
theorem test_wrframe_then_rdframe :
    answers (.okByte 0x3c#8) (exec (.rdframe 5#8) (after (exec (.wrframe 5#8 0x3c#8) State.reset))) = true := by decide
/-- V-AC10. -/
theorem test_rdframe_unwritten : stopsUnwritten (exec (.rdframe 6#8) (after (exec (.wrframe 5#8 0x3c#8) State.reset))) = true := by
  decide
/-- V-EX20: a word at `PIX_LEN` is refused, the one before it is read. -/
theorem test_rdpix :
    (let s := after (expandWith P4 (withFrame (frameWith 255 0x01#8) 1#32))
     answers (.okWord 0x22#32) (exec (.rdpix 2047) s) && answers (.error .pixRange) (exec (.rdpix 2048) s)) = true := by
  decide +kernel
/-- V-EX17: the scale is checked before the frame. -/
theorem test_expand_order_of_checks :
    answers .ok (exec .expand State.reset) = true ∧ stopsUnwritten (exec .expand { State.reset with scale := 1#32 }) = true := by
  decide
/-- V-RS5 by one reset event: the marks are cleared. -/
theorem test_reset_event : after (step { withFrame (frameWith 0 0x80#8) 7#32 with pending := [.reset] }) = State.reset := by
  rfl
/-- P3 line 5 and 6: after an access fault the next operation runs. -/
theorem test_run_goes_on_after_an_access_fault :
    (after (Sys2Proof.core.run 2
      { State.reset with pending := scriptEvents [.op (.rdpix 0), .op .expand] })).cause = 2#32 := by decide

/-! ## Witnesses: the hypotheses of the statements can be met -/

theorem read_map (f : Nat → Byte) (l : List Nat) (i : Nat) (h : i ∈ l) :
    Memory.read (l.map fun j => (j, f j)) i = some (f i) := by
  induction l with
  | nil => simp at h
  | cons j l ih =>
    by_cases hij : i = j
    · simp [Memory.read_cons, hij]
    · have : i ∈ l := by simpa [hij] using h
      simp [Memory.read_cons, hij, ih this]

/-- Every byte of a whole frame can be read. -/
theorem frameOf_read (f : Nat → Byte) (i : Nat) (h : i < 256) : (frameOf f).read i = some (f i) :=
  read_map f _ i (by simpa using h)

/-- A whole frame with scale 1 is ready, whatever `MAX_SCALE` is. -/
theorem ready_one (f : Nat → Byte) : ReadyToExpand (withFrame (frameOf f) 1#32) :=
  ⟨fun i h => ⟨f i, frameOf_read f i h⟩, le_refl 1, Config.params.maxScale_bounds.1⟩

/-- A ready state expands. -/
theorem ready_expands {P : Config.Params} {s : State} (h : ReadyToExpandAt P s) :
    expandWith P s = .next (expanded s.scale.toNat s) := by
  simp [expandWith, (checkScale_eq_none P.maxScale s.scale.toNat).2 h.2, (Memory.whole_iff s.frame).2 h.1]

/-- A ready state of this FBX expands. -/
theorem ready_exec {s : State} (h : ReadyToExpand s) : exec .expand s = .next (expanded s.scale.toNat s) :=
  ready_expands h

/-- A whole frame whose bytes are all `b`, at scale 1. -/
def uniform (b : Byte) : State := withFrame (frameOf fun _ => b) 1#32

theorem uniform_ready (b : Byte) : ReadyToExpand (uniform b) := ready_one fun _ => b

/-- The scale that is one too large. -/
theorem scale_one_too_large :
    (BitVec.ofNat 32 (Config.params.maxScale + 1)).toNat = Config.params.maxScale + 1 := by
  have := Config.params.maxScale_bounds
  simp only [BitVec.toNat_ofNat]
  omega

/-- A state with that scale. -/
def tooLarge : State := { State.reset with scale := BitVec.ofNat 32 (Config.params.maxScale + 1) }

theorem tooLarge_scale : tooLarge.scale.toNat > Config.params.maxScale := by
  show (BitVec.ofNat 32 (Config.params.maxScale + 1)).toNat > _
  rw [scale_one_too_large]
  omega

theorem tooLarge_expand : exec .expand tooLarge = .next (raiseCommandFault .scaleTooLarge tooLarge) := by
  have h := tooLarge_scale
  have h0 : ¬ tooLarge.scale.toNat = 0 := by omega
  simp only [exec, execExpand, expandWith, checkScale, h0, h, if_false, if_true]

theorem witness_ResetEventGivesTheResetState :
    ({ State.reset with pending := [.reset] } : State).pending = .reset :: [] := rfl

theorem witness_StepRunsTheDecodedOperation :
    (asked ⟨.read, .four, 0x34#32, 0#32⟩).pending = .bus ⟨.read, .four, 0x34#32, 0#32⟩ :: [] ∧
      decode ⟨.read, .four, 0x34#32, 0#32⟩ = .ok (.rdreg .maxScale) := by decide

theorem witness_NothingChangesWithoutAnOperation : State.reset.pending = [] := rfl

/-- The error flag and the cause are both cleared, by `CLRERR` and by a reset event. -/
theorem witness_ClrerrAloneClearsTheErrorFlag :
    (∃ s t : State, step s = .next t ∧ s.pending = [.bus ⟨.write, .four, 0#32, 3#32⟩] ∧
      s.status.getLsbD 0 = true ∧ t.status.getLsbD 0 = false ∧ s.cause ≠ 0#32 ∧ t.cause = 0#32) ∧
      (∃ s t : State, step s = .next t ∧ s.pending = [.reset] ∧
        s.status.getLsbD 0 = true ∧ t.status.getLsbD 0 = false ∧ s.cause ≠ 0#32 ∧ t.cause = 0#32) :=
  ⟨⟨{ asked ⟨.write, .four, 0#32, 3#32⟩ with status := 1#32, cause := 4#32 }, _, rfl, rfl, by decide⟩,
    ⟨{ State.reset with pending := [.reset], status := 1#32, cause := 4#32 }, _, rfl, rfl, by decide⟩⟩

/-- One operation for each of the four changes of the error record. -/
theorem witness_ErrorRecordChangesOnlyByFaultsAndClrerr :
    (∃ s t : State, exec (.wrreg .cmd 3#32) s = .next t ∧ t.status ≠ s.status) ∧
      (∃ t : State, exec .expand State.reset = .next t ∧ t.cause ≠ State.reset.cause) ∧
      (∃ s t : State, exec .expand s = .next t ∧ t.cause = 3#32 ∧ s.cause = 0#32) ∧
      (∃ t : State, exec (.wrreg .cmd 0#32) State.reset = .next t ∧ t.cause ≠ State.reset.cause) :=
  ⟨⟨{ State.reset with status := 1#32, cause := 1#32 }, _, rfl, by decide⟩, ⟨_, rfl, by decide⟩,
    ⟨tooLarge, _, tooLarge_expand, rfl, rfl⟩, ⟨_, rfl, by decide⟩⟩

/-- `ERR` set at scale 0, at a scale too large, and before a reserved word at the edge of the three commands; and two
faults in a row. -/
theorem witness_LaterFaultOverwritesTheCause :
    (∃ s : State, s.status.getLsbD 0 = true ∧ s.scale.toNat = 0 ∧ s.cause = 4#32) ∧
      (∃ s : State, s.status.getLsbD 0 = true ∧ s.scale.toNat > Config.params.maxScale ∧ s.cause = 4#32) ∧
      ((4#32 : Word) ≠ 1#32 ∧ (4#32 : Word) ≠ 2#32 ∧ (4#32 : Word) ≠ 3#32 ∧ 0 * 32 = 0) ∧
      (∃ s t : State, s.scale.toNat > Config.params.maxScale ∧ exec .expand s = .next t) :=
  ⟨⟨{ State.reset with status := 1#32, cause := 4#32 }, rfl, rfl, rfl⟩,
    ⟨{ tooLarge with status := 1#32, cause := 4#32 }, rfl, tooLarge_scale, rfl⟩, by decide,
    ⟨tooLarge, _, tooLarge_scale, tooLarge_expand⟩⟩

theorem witness_CommandWriteIsAnsweredOk :
    ∃ t, step (asked ⟨.write, .four, 0#32, 2#32⟩) = .next t :=
  ⟨_, rfl⟩

theorem witness_RdregAnswersTheRegister : ErrorRecordLegal State.reset := .inl ⟨rfl, rfl⟩

/-- The last byte of the frame, written and unwritten. -/
theorem witness_RdframeAnswersTheWrittenByte :
    (frameWith 255 0x01#8).read (255#8).toNat = some 0x01#8 ∧ State.reset.frame.read (255#8).toNat = none :=
  ⟨frameOf_read _ 255 (by omega), rfl⟩

theorem witness_WrframeAloneWritesTheFrame :
    ∃ t, exec (.wrframe 255#8 1#8) State.reset = .next t ∧ t.frame ≠ State.reset.frame :=
  ⟨_, rfl, by decide⟩

/-- Byte 255 written, then expanded; a frame expanded as it stands; and expanded, then byte 255 written. -/
theorem witness_ExpandTakesASnapshotOfTheFrame :
    (∃ s t u : State, s.scale.toNat = 1 ∧ exec (.wrframe 255#8 1#8) s = .next t ∧ ReadyToExpand t ∧
      exec .expand t = .next u ∧ 7 < 8 * 1 ∧ 0 < 1) ∧
      (∃ s u : State, s.scale.toNat = 1 ∧ ReadyToExpand s ∧ exec .expand s = .next u ∧
        (∃ c, s.frame.read 255 = some c) ∧ 7 < 8 * 1 ∧ 0 < 1) ∧
      (∃ s t u : State, exec .expand s = .next t ∧ exec (.wrframe 255#8 1#8) t = .next u) := by
  have hr : ReadyToExpand { uniform 0#8 with frame := (uniform 0#8).frame.write 255 1#8, response := some .ok } := by
    refine ⟨fun i h => ?_, le_refl 1, Config.params.maxScale_bounds.1⟩
    show ∃ b, ((uniform 0#8).frame.write 255 1#8).read i = some b
    rw [Memory.read_write]
    split
    · exact ⟨_, rfl⟩
    · exact (uniform_ready 0#8).1 i h
  exact ⟨⟨uniform 0#8, _, _, rfl, rfl, hr, ready_exec hr, by omega, by omega⟩,
    ⟨uniform 0#8, _, rfl, uniform_ready 0#8, ready_exec (uniform_ready 0#8), (uniform_ready 0#8).1 255 (by omega),
      by omega, by omega⟩,
    ⟨uniform 0#8, _, _, ready_exec (uniform_ready 0#8), rfl⟩⟩

/-- Both sides of the boundary between the two clauses. -/
theorem witness_CommandDecodeIsTotal :
    (0x00000100#32).extractLsb' 8 24 ≠ 0#24 ∧ (0x000000ff#32).extractLsb' 8 24 = 0#24 ∧
      decode ⟨.write, .four, 0#32, 0x000000ff#32⟩ = .ok (.cmdwordReserved 0x000000ff#32) ∧
      (0x000000ff#32 : Word) ≠ 1#32 ∧ (0x000000ff#32 : Word) ≠ 2#32 ∧ (0x000000ff#32 : Word) ≠ 3#32 := by decide

/-- The last word of PIXBUF is a well-formed operand. -/
theorem witness_DecodeReadsBackEveryEncoding :
    (Instr.rdpix (Config.params.pixbufWords - 1)).wellFormed = true ∧
      ∀ v, Instr.rdpix (Config.params.pixbufWords - 1) ≠ .wrreg .cmd v := by
  have := Config.params.pixbufWords_bounds
  refine ⟨?_, fun v => by simp⟩
  simp only [Instr.wellFormed, Instr.wellFormedAt, decide_eq_true_eq]
  omega

theorem witness_AcceptedTransactionsAreEncodings :
    (Transaction.mk .write .one 0x1ff#32 0xff#32).wellFormed = true ∧
      decode ⟨.write, .one, 0x1ff#32, 0xff#32⟩ = .ok (.wrframe 255#8 255#8) := by decide

/-- A refusal of an operation, and one of the decoder. -/
theorem witness_AccessFaultsChangeNothing :
    (∃ t, step (asked ⟨.read, .four, 0x100000#32, 0#32⟩) = .next t ∧ t.response = some (.error .pixRange)) ∧
      decode ⟨.read, .four, 0x38#32, 0#32⟩ = .refused .unmapped :=
  ⟨⟨_, rfl, by decide⟩, by decide⟩

/-- A legal geometry at scale 1: words 2047 and 2048 stand at the boundary of the two clauses. -/
theorem witness_RdpixAnswersTheWord :
    ∃ s : State, GeometryLegal s ∧ 2047 < s.pixLen.toNat ∧ s.pixLen.toNat ≤ 2048 :=
  ⟨{ State.reset with outW := 64#32, outH := 32#32, pixLen := 2048#32, pixbuf := List.replicate 2048 0#32 },
    ⟨1, Config.params.maxScale_bounds.1, rfl, rfl, rfl, List.length_replicate⟩, by decide, by decide⟩

theorem witness_PixelBufferChangesOnlyByExpandAndReset :
    ∃ s t : State, s.pending = [.bus ⟨.write, .four, 0#32, 2#32⟩] ∧ ReadyToExpand s ∧ step s = .next t := by
  refine ⟨{ uniform 0x80#8 with pending := [.bus ⟨.write, .four, 0#32, 2#32⟩] },
    expanded 1 ((uniform 0x80#8).withPending []), rfl, uniform_ready 0x80#8, ?_⟩
  have hd : decode ⟨.write, .four, 0#32, 2#32⟩ = .ok .expand := by decide
  simp only [step, hd]
  exact ready_exec (s := (uniform 0x80#8).withPending []) (uniform_ready 0x80#8)

theorem witness_CalcscaleComputesTheScale : (1 * 1 : Nat) ≠ 0 ∧ (0 * 32 : Nat) = 0 := by decide

theorem witness_ScaleIsTheFloorOfTheRealRoot : (1 : Nat) ≤ 1 ∧ ∃ t, exec .calcscale State.reset = .next t :=
  ⟨le_refl 1, _, rfl⟩

/-- Two windows in order; a window that is a multiple of the raster; and R124's own window, 32 × 256, with `MAX_SCALE`
4. -/
theorem witness_ScaleLaws :
    (∃ s s' t t' : State, s.winW.toNat ≤ s'.winW.toNat ∧ s.winH.toNat ≤ s'.winH.toNat ∧
      exec .calcscale s = .next t ∧ exec .calcscale s' = .next t') ∧
      (∃ s : State, s.winW.toNat = 1 * 64 ∧ s.winH.toNat = 1 * 32) ∧
      (∃ s t u : State, exec .calcscale s = .next t ∧ s.winW = 32#32 ∧ s.winH = 256#32 ∧
        ReadyToExpandAt P4 t ∧ expandWith P4 t = .next u) := by
  refine ⟨⟨State.reset, { State.reset with winW := 64#32, winH := 32#32 }, _, _, by decide, by decide, rfl, rfl⟩,
    ⟨{ State.reset with winW := 64#32, winH := 32#32 }, by decide, by decide⟩, ?_⟩
  have hr : ReadyToExpandAt P4 { uniform 0#8 with
      scale := 2#32, winW := 32#32, winH := 256#32, response := some .ok } :=
    ⟨(uniform_ready 0#8).1, by decide, by decide⟩
  refine ⟨{ uniform 0#8 with winW := 32#32, winH := 256#32 }, _, _, ?_, rfl, rfl, hr, ready_expands hr⟩
  simp only [exec, execCalcscale]
  rw [calcscaleWith_eq _ _ _ (by decide)]
  rfl

/-- The scales 0, `MAX_SCALE` + 1 and `MAX_SCALE`, one for each clause. -/
theorem witness_ExpandChecksTheScale :
    State.reset.scale.toNat = 0 ∧
      (BitVec.ofNat 32 (Config.params.maxScale + 1)).toNat > Config.params.maxScale ∧
      1 ≤ (BitVec.ofNat 32 Config.params.maxScale).toNat ∧
      (BitVec.ofNat 32 Config.params.maxScale).toNat ≤ Config.params.maxScale := by
  have := Config.params.maxScale_bounds
  refine ⟨rfl, by rw [scale_one_too_large]; omega, ?_, ?_⟩ <;> simp only [BitVec.toNat_ofNat] <;> omega

/-- The last output pixel at scale 1, by coordinates and by index. -/
theorem witness_ExpandBuildsTheClosedForm :
    ∃ s : State, s.scale.toNat = 1 ∧ ReadyToExpand s ∧ 63 < 64 * 1 ∧ 31 < 32 * 1 ∧ 2047 < 1 ^ 2 * 64 * 32 :=
  ⟨uniform 0xa5#8, rfl, uniform_ready 0xa5#8, by decide⟩

theorem witness_ExpandIsAllOrNothing : ∃ s t : State, exec .expand s = .next t :=
  ⟨uniform 0xa5#8, _, ready_exec (uniform_ready 0xa5#8)⟩

theorem witness_ExpandLeavesItsInputsAlone : ∃ s t : State, exec .expand s = .next t ∧ ReadyToExpand s :=
  ⟨uniform 0xa5#8, _, ready_exec (uniform_ready 0xa5#8), uniform_ready 0xa5#8⟩

/-- A blank frame and a full one. -/
theorem witness_UniformFramesGiveOneColour :
    (∃ s t : State, ReadyToExpand s ∧ exec .expand s = .next t ∧ ∀ i, i < 256 → s.frame.read i = some 0x00#8) ∧
      (∃ s t : State, ReadyToExpand s ∧ exec .expand s = .next t ∧ ∀ i, i < 256 → s.frame.read i = some 0xff#8) :=
  ⟨⟨uniform 0x00#8, _, uniform_ready 0x00#8, ready_exec (uniform_ready 0x00#8), frameOf_read fun _ => 0x00#8⟩,
    ⟨uniform 0xff#8, _, uniform_ready 0xff#8, ready_exec (uniform_ready 0xff#8), frameOf_read fun _ => 0xff#8⟩⟩

/-- Scale 4, the largest of an FBX with `MAX_SCALE` 4, and its last output pixel. -/
theorem witness_ScalingIsConsistent :
    ∃ s t t1 : State, s.scale.toNat = 4 ∧ ReadyToExpandAt P4 s ∧ expandWith P4 s = .next t ∧
      expandWith P4 { s with scale := 1#32 } = .next t1 ∧ 255 < 64 * 4 ∧ 127 < 32 * 4 := by
  have h4 : ReadyToExpandAt P4 { uniform 0xa5#8 with scale := 4#32 } :=
    ⟨(uniform_ready 0xa5#8).1, by decide, by decide⟩
  have h1 : ReadyToExpandAt P4 { uniform 0xa5#8 with scale := 1#32 } :=
    ⟨(uniform_ready 0xa5#8).1, le_refl 1, by decide⟩
  exact ⟨{ uniform 0xa5#8 with scale := 4#32 }, _, _, rfl, h4, ready_expands h4, ready_expands h1, by decide, by decide⟩

theorem witness_OnWordsCountTheFrameBits :
    ∃ s t : State, ReadyToExpand s ∧ s.colorOn ≠ s.colorOff ∧ exec .expand s = .next t :=
  ⟨uniform 0xa5#8, _, uniform_ready 0xa5#8, by decide, ready_exec (uniform_ready 0xa5#8)⟩

/-- Two states that differ in the window, the error record and the last response. -/
theorem witness_ExpandDependsOnItsInputsOnly :
    ∃ s s' t : State, ReadyToExpand s ∧ (∀ i, i < 256 → s'.frame.read i = s.frame.read i) ∧ s'.scale = s.scale ∧
      s'.colorOff = s.colorOff ∧ s'.colorOn = s.colorOn ∧ exec .expand s = .next t ∧ s' ≠ s :=
  ⟨uniform 0xa5#8, { uniform 0xa5#8 with winW := 5#32, status := 1#32, cause := 4#32 }, _,
    uniform_ready 0xa5#8, fun _ _ => rfl, rfl, rfl, rfl, ready_exec (uniform_ready 0xa5#8),
    fun h => absurd (congrArg State.winW h) (by decide)⟩

theorem witness_ReservedWordsAreIllegalCommands :
    (4#32 : Word) ≠ 1#32 ∧ (4#32 : Word) ≠ 2#32 ∧ (4#32 : Word) ≠ 3#32 := by decide

/-- A window of 64 × 32 that fits, and one of 64 × 33 that does not. -/
theorem witness_PictureCoversTheWindowExactly :
    (∃ s t u : State, exec .calcscale s = .next t ∧ ReadyToExpand t ∧ exec .expand t = .next u ∧ WindowFits 1 s) ∧
      (∃ s t u : State, exec .calcscale s = .next t ∧ ReadyToExpand t ∧ exec .expand t = .next u ∧ s.winH = 33#32) := by
  have hr : ∀ h : Word, ReadyToExpand { uniform 0#8 with winW := 64#32, winH := h, response := some .ok } :=
    fun _ => uniform_ready 0#8
  have hc : ∀ h : Word, h = 32#32 ∨ h = 33#32 →
      exec .calcscale { uniform 0#8 with winW := 64#32, winH := h } =
        .next { uniform 0#8 with winW := 64#32, winH := h, response := some .ok } := by
    rintro h (rfl | rfl) <;> simp only [exec, execCalcscale] <;> rw [calcscaleWith_eq _ _ _ (by decide)] <;> rfl
  exact ⟨⟨_, _, _, hc 32#32 (.inl rfl), hr 32#32, ready_exec (hr 32#32), by decide, by decide⟩,
    ⟨_, _, _, hc 33#32 (.inr rfl), hr 33#32, ready_exec (hr 33#32), rfl⟩⟩

theorem witness_LoadframeDeliversTheFrame :
    ∃ (s : State) (bytes : List Byte), bytes.length = 256 ∧
      s.pending = scriptEvents (loadFrameScript bytes) ++ [.reset] ∧ s.frame.wf = true := by
  obtain ⟨bytes, h⟩ : ∃ bytes : List Byte, bytes = List.replicate 256 0x55#8 := ⟨_, rfl⟩
  exact ⟨{ State.reset with pending := scriptEvents (loadFrameScript bytes) ++ [.reset] }, bytes,
    by rw [h, List.length_replicate], rfl, rfl⟩

theorem witness_EveryStepKeepsLegality :
    ∃ s t : State, ErrorRecordLegal s ∧ s.frame.wf = true ∧ GeometryLegal s ∧ step s = .next t :=
  ⟨asked ⟨.write, .four, 0#32, 2#32⟩, _, .inl ⟨rfl, rfl⟩, rfl, ⟨0, Nat.zero_le _, rfl, rfl, rfl, rfl⟩, rfl⟩

end Sys2Proof.Tests
end

section
/-! PROOFS. The state after reset (spec/10_state.md, R43). -/

namespace Sys2Proof.Machine

/-- The store with nothing written carries no written-mark (10_state R31). -/
@[simp] theorem Memory.marked_nil (i : Nat) : Memory.marked [] i = false := rfl

/-! The three registers that read as constants, whatever the state (10_state R22). -/

@[simp] theorem readRegister_srcW (P : Config.Params) (s : State) : readRegister P .srcW s = 64#32 := rfl

@[simp] theorem readRegister_srcH (P : Config.Params) (s : State) : readRegister P .srcH s = 32#32 := rfl

@[simp] theorem readRegister_maxScale (P : Config.Params) (s : State) :
    readRegister P .maxScale s = BitVec.ofNat 32 P.maxScale := rfl

/-- After reset no frame byte has a value or a written-mark (the frame store's line of R43). -/
theorem State_reset_frame_unwritten (i : Nat) :
    State.reset.frame.read i = none ∧ State.reset.frame.marked i = false := by
  rw [State_reset_frame]
  exact ⟨Memory.read_nil i, Memory.marked_nil i⟩

/-- Settles O1, line by line of the table of R43: the stored registers, the pixel buffer, the frame store, and the
registers that read as constants. -/
theorem resetLeavesTheStatedValues : Obligations.ResetLeavesTheStatedValues :=
  ⟨State_reset_status, State_reset_cause, State_reset_winW, State_reset_winH, State_reset_scale,
    State_reset_colorOff, State_reset_colorOn, State_reset_outW, State_reset_outH, State_reset_pixLen,
    State_reset_pixbuf, State_reset_frame_unwritten,
    fun s => ⟨readRegister_srcW _ s, readRegister_srcH _ s, readRegister_maxScale _ s⟩⟩

end Sys2Proof.Machine
end

section
/-! PROOFS. The access operations of spec/20_memory.md: reads of a register (R66) and of a frame byte (R68), and the
write of a frame byte (R69). -/

namespace Sys2Proof.Machine

open Sys2Proof.Safety

/-- The reserved bits of `STATUS` and `CAUSE` are 0 in a legal error record (10_state R24, R25). -/
theorem errorRecordLegal_reserved_bits {s : State} (h : ErrorRecordLegal s) :
    s.status.toNat < 2 ∧ s.cause.toNat < 256 := by
  rcases h with ⟨hs, hc⟩ | ⟨hs, hc | hc | hc | hc⟩ <;> rw [hs, hc] <;> decide

/-- Settles O6: what is answered is `readRegister`, register by register (R66). -/
theorem rdregAnswersTheRegister : Obligations.RdregAnswersTheRegister := by
  intro n s
  refine ⟨?_, errorRecordLegal_reserved_bits, rfl⟩
  cases n <;> rfl

/-- Settles O12: the two cases of `RDFRAME`, each excluded by the other's hypothesis (R68). -/
theorem rdframeAnswersTheWrittenByte : Obligations.RdframeAnswersTheWrittenByte := by
  intro i s
  refine ⟨fun b hb => ?_, fun hnone => ?_, rfl⟩
  · rcases execRdframe_cases i s with ⟨c, hc, hx⟩ | ⟨hnone, _⟩
    · obtain rfl : b = c := Option.some.inj (hb.symm.trans hc)
      exact hx
    · rw [hb] at hnone
      cases hnone
  · rcases execRdframe_cases i s with ⟨c, hc, _⟩ | ⟨_, hx⟩
    · rw [hnone] at hc
      cases hc
    · exact hx

/-- `WRFRAME` writes the frame store and answers `ok` (R69). -/
theorem exec_wrframe (i b : Byte) (s : State) :
    exec (.wrframe i b) s = .next { s with frame := s.frame.write i.toNat b, response := some .ok } := rfl

theorem Memory.marked_write_same (m : Memory) (i : Nat) (b : Byte) : (m.write i b).marked i = true := by
  rw [Memory.marked, Memory.read_write_same, Option.isSome_some]

theorem Memory.marked_write_other (m : Memory) {i j : Nat} (b : Byte) (h : j ≠ i) :
    (m.write i b).marked j = m.marked j := by
  rw [Memory.marked, Memory.read_write_other m b h, Memory.marked]

theorem calcscaleWith_frame (srcW srcH : Nat) (s : State) : (calcscaleWith srcW srcH s).frame = s.frame := by
  unfold calcscaleWith
  split <;> rfl

/-- An operation that goes on keeps the frame store or is a `WRFRAME`. -/
theorem exec_next_frame {i : Instr} {s t : State} (h : exec i s = .next t) :
    t.frame = s.frame ∨ ∃ j b, i = .wrframe j b := by
  rcases exec_next_cases h with ⟨r, rfl⟩ | ⟨c, rfl⟩ | ⟨rfl, _⟩ | ⟨n, v, s', hs, _, rfl⟩ | ⟨rfl, _⟩ | ⟨rfl, _⟩ |
    ⟨j, b, hi, _⟩
  · exact .inl (State_respond_frame r s)
  · exact .inl (raiseCommandFault_frame c s)
  · exact .inl (clearCommandFault_frame s)
  · obtain ⟨_, hframe, _⟩ := storeRegister_spec hs
    exact .inl ((State_respond_frame .ok s').trans hframe)
  · exact .inl (calcscaleWith_frame _ _ s)
  · exact .inl (expanded_frame _ s)
  · exact .inr ⟨j, b, hi⟩

/-- Settles O13: the memory is the written one, and a changed frame leaves only `WRFRAME` (R69). -/
theorem wrframeAloneWritesTheFrame : Obligations.WrframeAloneWritesTheFrame := by
  refine ⟨fun i b s => ?_, fun _ _ => rfl, fun i s t h hne => (exec_next_frame h).resolve_left hne⟩
  exact ⟨s.frame.write i.toNat b, exec_wrframe i b s, Memory.read_write_same .., Memory.marked_write_same ..,
    fun j hj => ⟨Memory.read_write_other _ b hj, Memory.marked_write_other _ b hj⟩⟩

end Sys2Proof.Machine
end

section
/-! PROOFS. The scan of `EXPAND` word by word (spec/41_expander.md, R142 to R146), and the snapshot it takes of the frame
store (spec/20_memory.md, R77). -/

namespace Sys2Proof.Machine

open Sys2Proof.Safety

/-! ## Words of the scan -/

/-- Word `r` of segment `q`, of segments of equal length `c` put one after the other. -/
theorem getElem?_flatMap_eq {α β : Type} (l : List α) (f : α → List β) {c : Nat} (h : ∀ x, (f x).length = c)
    (q : Nat) {r : Nat} (hr : r < c) : (l.flatMap f)[q * c + r]? = l[q]?.bind fun x => (f x)[r]? := by
  induction l generalizing q with
  | nil => simp
  | cons x l ih =>
    rw [List.flatMap_cons]
    cases q with
    | zero => simp [List.getElem?_append_left, h, hr]
    | succ q =>
      have hpos : (q + 1) * c + r = (f x).length + (q * c + r) := by rw [h]; ring
      rw [hpos, List.getElem?_append_right (Nat.le_add_right _ _), Nat.add_sub_cancel_left, ih,
        List.getElem?_cons_succ]

/-- Segments numbered from 0: word `r` of segment `q`. -/
theorem getElem?_flatMap_range {β : Type} (f : Nat → List β) {n c q r : Nat} (h : ∀ x, (f x).length = c)
    (hq : q < n) (hr : r < c) : ((List.range n).flatMap f)[q * c + r]? = (f q)[r]? := by
  rw [getElem?_flatMap_eq _ f h q hr, List.getElem?_range hq, Option.bind_some]

/-- A list repeated `n` times: word `r` of any copy. -/
theorem getElem?_flatten_replicate {β : Type} (l : List β) {n q r : Nat} (hq : q < n) (hr : r < l.length) :
    (List.replicate n l).flatten[q * l.length + r]? = l[r]? := by
  have hcopies : (List.replicate n l).flatten = (List.range n).flatMap fun _ => l := by
    rw [List.flatMap_def, List.map_const', List.length_range]
  rw [hcopies, getElem?_flatMap_range _ (fun _ => rfl) hq hr]

/-- Word `x` of an expanded byte shows bit `7 - x / k` (41 R143 to R145). -/
theorem expandByte_getElem? (off on : Word) (b : Byte) {k x : Nat} (hx : x < 8 * k) :
    (expandByte off on k b)[x]? = some (palette off on (b.getLsbD (7 - x / k))) := by
  have hk : 0 < k := by omega
  have hbit : x / k < 8 := Nat.div_lt_of_lt_mul (by rwa [Nat.mul_comm])
  have hmod : x % k < k := Nat.mod_lt x hk
  calc (expandByte off on k b)[x]?
      = (expandByte off on k b)[x / k * k + x % k]? := by rw [Nat.div_add_mod']
    _ = (List.replicate k (palette off on (b.getLsbD (7 - x / k))))[x % k]? :=
        getElem?_flatMap_range _ (fun _ => List.length_replicate) hbit hmod
    _ = some (palette off on (b.getLsbD (7 - x / k))) := List.getElem?_replicate_of_lt hmod

/-- Word `x` of the segment of byte `bx` in an expanded row (41 R142 step 4). -/
theorem expandRow_getElem? (m : Memory) (off on : Word) (sy : Nat) {k bx x : Nat} (hbx : bx < 8) (hx : x < 8 * k) :
    (expandRow m off on k sy)[bx * (8 * k) + x]? =
      some (palette off on ((frameByte m (sy * 8 + bx)).getLsbD (7 - x / k))) :=
  (getElem?_flatMap_range _ (fun _ => length_expandByte ..) hbx hx).trans (expandByte_getElem? off on _ hx)

/-- Word `X` of output row `sy × k + v` is word `X` of the expanded source row `sy` (41 R142 step 5, R146). -/
theorem expandScan_getElem? (m : Memory) (off on : Word) {k sy v X : Nat} (hsy : sy < 32) (hv : v < k)
    (hX : X < 64 * k) :
    (expandScan m off on k)[(sy * k + v) * (64 * k) + X]? = (expandRow m off on k sy)[X]? := by
  have hrow : ∀ y, (expandRow m off on k y).length = 64 * k := fun y => length_expandRow m off on k y
  have hcopies : ∀ y, (List.replicate k (expandRow m off on k y)).flatten.length = k * (64 * k) := by
    simp [hrow]
  have hin : v * (64 * k) + X < k * (64 * k) := by nlinarith
  have hpos : (sy * k + v) * (64 * k) + X = sy * (k * (64 * k)) + (v * (64 * k) + X) := by ring
  have hcopy := getElem?_flatten_replicate (expandRow m off on k sy) hv ((hrow sy).symm ▸ hX)
  rw [hrow] at hcopy
  rw [hpos]
  exact (getElem?_flatMap_range _ hcopies hsy hin).trans hcopy

/-- The `8 k × k` words that the scan makes from byte `j` of the frame show its bits, bit 7 first. -/
theorem expandScan_byte (m : Memory) (off on : Word) {j k x v : Nat} {c : Byte} (hj : j < 256)
    (hc : m.read j = some c) (hx : x < 8 * k) (hv : v < k) :
    (expandScan m off on k)[(j / 8 * k + v) * (64 * k) + j % 8 * (8 * k) + x]? =
      some (if c.getLsbD (7 - x / k) then on else off) := by
  have hbx : j % 8 < 8 := Nat.mod_lt j (by omega)
  have hX : j % 8 * (8 * k) + x < 64 * k := by nlinarith
  have hbyte : frameByte m (j / 8 * 8 + j % 8) = c := by rw [Nat.div_add_mod', frameByte, hc, Option.getD_some]
  rw [Nat.add_assoc, expandScan_getElem? m off on (by omega) hv hX, expandRow_getElem? m off on _ hbx hx, hbyte, palette]

/-! ## The snapshot -/

/-- An `EXPAND` that goes on from a ready state has rebuilt the pixel buffer (41 R140). -/
theorem exec_expand_next_of_ready {s t : State} (hs : ReadyToExpand s) (h : exec .expand s = .next t) :
    t = expanded s.scale.toNat s := by
  obtain ⟨_, hscale⟩ := hs
  have hcheck := (checkScale_eq_none Config.params.maxScale s.scale.toNat).2 hscale
  rcases expandWith_cases Config.params s with ⟨c, hc, _⟩ | ⟨_, _, hx⟩ | ⟨_, _, hx⟩
  · rw [hcheck] at hc
    cases hc
  · exact Host.Outcome.next.inj (h.symm.trans hx)
  · cases h.symm.trans hx

/-- The pixels that `EXPAND` makes from byte `j` of the frame store as it stands (R77). -/
theorem exec_expand_byte {s u : State} {c : Byte} {j x v : Nat} (hs : ReadyToExpand s)
    (h : exec .expand s = .next u) (hj : j < 256) (hc : s.frame.read j = some c) (hx : x < 8 * s.scale.toNat)
    (hv : v < s.scale.toNat) :
    u.pixbuf[(j / 8 * s.scale.toNat + v) * (64 * s.scale.toNat) + j % 8 * (8 * s.scale.toNat) + x]? =
      some (if c.getLsbD (7 - x / s.scale.toNat) then s.colorOn else s.colorOff) := by
  rw [exec_expand_next_of_ready hs h, expanded_pixbuf]
  exact expandScan_byte s.frame s.colorOff s.colorOn hj hc hx hv

/-- Settles O14: a byte written before `EXPAND` is one of the frame store as it stands, and a later `WRFRAME` writes the
frame store alone. -/
theorem expandTakesASnapshotOfTheFrame : Obligations.ExpandTakesASnapshotOfTheFrame := by
  refine ⟨?before, ?standing, ?after⟩
  case before =>
    rintro i b s t u k x v rfl hw ht hu hx hv
    rw [exec_wrframe] at hw
    obtain rfl := Host.Outcome.next.inj hw
    have hpixel := exec_expand_byte ht hu i.isLt (Memory.read_write_same ..) hx hv
    exact hpixel
  case standing =>
    rintro s u c j k x v rfl hs hu hj hc hx hv
    exact exec_expand_byte hs hu hj hc hx hv
  case after =>
    intro i b s t u _ hw
    rw [exec_wrframe] at hw
    obtain rfl := Host.Outcome.next.inj hw
    exact ⟨rfl, rfl, rfl, rfl⟩

end Sys2Proof.Machine
end

section
/-! PROOFS. Command decode (spec/30_encoding.md, R92, R93): what a command word decodes to field by field, and what a
write of it to `CMD` runs. -/

namespace Sys2Proof

/-- A 4-byte write to offset 0 is decoded as the command its data word encodes (R90, R93). -/
theorem decode_commandWrite (w : Word) : decode (commandWrite w) = .ok (commandOf w).instr := by
  have hregion : regionOf Config.params 0#32 = .reg := by decide
  unfold decode decodeAt
  simp [commandWrite, hregion, Region.accessSize, decodeRegister, Reg.ofIndex, decodeRegisterWrite]

/-- Non-zero `RSV` selects no command, whatever `OP` is (R93). -/
theorem commandOf_of_rsv_ne_zero {w : Word} (h : commandRsv w ≠ 0#24) : commandOf w = .illegal w := if_pos h

/-- With zero `RSV` a command word is its field `OP`. -/
theorem commandOp_toNat_of_rsv_eq_zero {w : Word} (h : commandRsv w = 0#24) : (commandOp w).toNat = w.toNat := by
  have hw : w.toNat < 256 := (commandRsv_eq_zero_iff w).1 h
  rw [← (commandOp_eq_iff w (commandOp w)).1 rfl, Nat.mod_eq_of_lt hw]

/-- Zero `RSV` and a known `OP` fix the whole command word. -/
theorem eq_of_rsv_eq_zero_of_op {w : Word} {c : Nat} (h : commandRsv w = 0#24) (hop : (commandOp w).toNat = c) :
    w = BitVec.ofNat 32 c := by
  rw [← hop, commandOp_toNat_of_rsv_eq_zero h, BitVec.ofNat_toNat, BitVec.setWidth_eq]

end Sys2Proof

namespace Sys2Proof.Machine

/-- `execute_command(w)` is the operation that `w` decodes to (R93). -/
theorem executeCommand_eq_exec (w : Word) (s : State) : executeCommand w s = exec (commandOf w).instr s := by
  unfold executeCommand
  cases commandOf w <;> rfl

/-- `WRREG CMD` executes its operand as a command word (20_memory R67). -/
theorem exec_wrreg_cmd (w : Word) (s : State) : exec (.wrreg .cmd w) s = executeCommand w s := by
  show execWrreg .cmd w s = executeCommand w s
  exact if_pos rfl

/-- A reserved word raises `IllegalCommand` (42 R171). -/
theorem exec_cmdwordReserved (w : Word) (s : State) :
    exec (.cmdwordReserved w) s = .next (raiseCommandFault .illegalCommand s) := rfl

/-- Settles O17. With zero `RSV`, a word other than 1, 2 and 3 has an `OP` other than 1, 2 and 3, since `OP` is then the
whole word (R93). -/
theorem commandDecodeIsTotal : Obligations.CommandDecodeIsTotal := by
  intro w
  refine ⟨fun hrsv => ?rsv, fun hrsv => ?op, fun s i hi => ?run, fun _ _ _ s => exec_cmdwordReserved w s⟩
  case rsv =>
    exact (decode_commandWrite w).trans (congrArg (Decoded.ok ·.instr) (commandOf_of_rsv_ne_zero hrsv))
  case op =>
    rcases commandOf_cases w with ⟨rfl, _⟩ | ⟨rfl, _⟩ | ⟨rfl, _⟩ | ⟨h1, h2, h3, hc⟩
    · rfl
    · rfl
    · rfl
    · have hreserved : decode (commandWrite w) = .ok (.cmdwordReserved w) := by
        rw [decode_commandWrite, hc, Command.instr]
      split
      next hop => exact absurd (eq_of_rsv_eq_zero_of_op hrsv hop) h1
      next hop => exact absurd (eq_of_rsv_eq_zero_of_op hrsv hop) h2
      next hop => exact absurd (eq_of_rsv_eq_zero_of_op hrsv hop) h3
      next => exact hreserved
  case run =>
    obtain rfl : (commandOf w).instr = i := Decoded.ok.inj ((decode_commandWrite w).symm.trans hi)
    rw [exec_wrreg_cmd, executeCommand_eq_exec]

end Sys2Proof.Machine
end

section
/-! PROOFS. The scale calculator (spec/40_scale_calculator.md): what `CALCSCALE` stores (R121, R122), that it is the
real-number formula (R123), and the laws of the stored scale (R124). -/

namespace Sys2Proof.Machine

open Sys2Proof.Safety

/-! ## The integer root of a quotient -/

/-- `r ≤ isqrt(N div A)` without the root and without the division, the middle of the proof in R123. -/
theorem le_isqrt_div_iff {N A r : Nat} (hA : 1 ≤ A) : r ≤ isqrt (N / A) ↔ r ^ 2 * A ≤ N := by
  rw [le_isqrt, Nat.le_div_iff_mul_le hA, sq]

/-- The same of the real-number formula, the other end of the proof in R123. -/
theorem le_floor_sqrt_div_iff {N A r : Nat} (hA : 1 ≤ A) :
    r ≤ ⌊Real.sqrt ((N : ℝ) / (A : ℝ))⌋₊ ↔ r ^ 2 * A ≤ N := by
  have hpos : (0 : ℝ) < A := Nat.cast_pos.2 hA
  rw [Nat.le_floor_iff (Real.sqrt_nonneg _), Real.le_sqrt r.cast_nonneg (by positivity), le_div_iff₀ hpos]
  exact_mod_cast Iff.rfl

/-- The document's formula is the integer formula: the same numbers are at most either (R123). -/
theorem floor_sqrt_div_eq_isqrt {N A : Nat} (hA : 1 ≤ A) : ⌊Real.sqrt ((N : ℝ) / (A : ℝ))⌋₊ = isqrt (N / A) :=
  eq_of_forall_le_iff fun _ => (le_floor_sqrt_div_iff hA).trans (le_isqrt_div_iff hA).symm

/-! ## What `CALCSCALE` leaves -/

/-- The window's area is a product of two 32-bit numbers. -/
theorem windowArea_lt (s : State) : windowArea s < 2 ^ 32 * 2 ^ 32 :=
  Nat.mul_lt_mul'' s.winW.isLt s.winH.isLt

/-- The result fits the 32-bit `SCALE`, whatever the source (R122). -/
theorem isqrt_windowArea_div_lt (s : State) (A : Nat) : isqrt (windowArea s / A) < 2 ^ 32 := by
  by_contra hge
  have hsq : 2 ^ 32 * 2 ^ 32 ≤ windowArea s / A := le_isqrt.1 (not_lt.1 hge)
  exact (windowArea_lt s).not_ge (hsq.trans (Nat.div_le_self _ _))

/-- A source of no area is the command fault `InvalidDimensions` (R121). -/
theorem calcscaleWith_eq_fault (srcW srcH : Nat) (s : State) (h : srcW * srcH = 0) :
    calcscaleWith srcW srcH s = raiseCommandFault .invalidDimensions s := by
  simp [calcscaleWith, computeScale_eq, h]

/-- The source raster of this hardware is 64 × 32 (10_state R28). -/
theorem exec_calcscale (s : State) : exec .calcscale s = .next (calcscaleWith 64 32 s) := rfl

/-- The value `CALCSCALE` writes for a source with an area, with the bounds that fix it (00_scope R9) and its range. -/
theorem calcscaleWith_spec (srcW srcH : Nat) (s : State) (h : srcW * srcH ≠ 0) : ∃ r : Nat,
    calcscaleWith srcW srcH s = { s with scale := BitVec.ofNat 32 r, response := some .ok } ∧
      r * r ≤ windowArea s / (srcW * srcH) ∧ windowArea s / (srcW * srcH) < (r + 1) * (r + 1) ∧ r < 2 ^ 32 := by
  obtain ⟨hlo, hhi⟩ := isqrt_spec (windowArea s / (srcW * srcH))
  exact ⟨_, calcscaleWith_eq srcW srcH s h, hlo, hhi, isqrt_windowArea_div_lt s _⟩

/-- Settles O24: this hardware's `CALCSCALE` is the one of a 64 × 32 source, which has an area. -/
theorem calcscaleComputesTheScale : Obligations.CalcscaleComputesTheScale := by
  refine ⟨fun s => ?this_hardware, calcscaleWith_spec, calcscaleWith_eq_fault, exec_calcscale, rfl⟩
  case this_hardware =>
    obtain ⟨r, hx, hbounds⟩ := calcscaleWith_spec 64 32 s (by decide)
    exact ⟨r, (exec_calcscale s).trans (congrArg _ hx), hbounds⟩

/-! ## The stored scale -/

section
variable {s t : State}

/-- The stored scale is the integer root, not cut off by the width of `SCALE`. -/
theorem exec_calcscale_scale (h : exec .calcscale s = .next t) : t.scale.toNat = isqrt (windowArea s / (64 * 32)) := by
  rw [exec_calcscale, calcscaleWith_eq 64 32 s (by decide)] at h
  obtain rfl := Host.Outcome.next.inj h
  exact (BitVec.toNat_ofNat _ 32).trans (Nat.mod_eq_of_lt (isqrt_windowArea_div_lt s _))

/-- The numbers up to the stored scale are those whose picture has no more pixels than the window. Every law of the
scale below follows from this one. -/
theorem le_scale_iff (h : exec .calcscale s = .next t) {r : Nat} :
    r ≤ t.scale.toNat ↔ r ^ 2 * (64 * 32) ≤ windowArea s := by
  rw [exec_calcscale_scale h]
  exact le_isqrt_div_iff (by decide)

/-- The picture at the stored scale has no more pixels than the window (R124 item (d)). -/
theorem scale_sq_mul_le (h : exec .calcscale s = .next t) : t.scale.toNat ^ 2 * (64 * 32) ≤ windowArea s :=
  (le_scale_iff h).1 le_rfl

/-- A window with `m²` times the pixels of the source has scale `m` (R124 items (c), (d)). -/
theorem scale_eq_of_windowArea (h : exec .calcscale s = .next t) {m : Nat} (hm : windowArea s = 64 * 32 * m ^ 2) :
    t.scale.toNat = m := by
  refine eq_of_forall_le_iff fun r => ?_
  calc r ≤ t.scale.toNat
      ↔ r ^ 2 * (64 * 32) ≤ m ^ 2 * (64 * 32) := by rw [le_scale_iff h, hm, Nat.mul_comm (64 * 32)]
    _ ↔ r ^ 2 ≤ m ^ 2 := Nat.mul_le_mul_right_iff (by decide)
    _ ↔ r ≤ m := Nat.pow_le_pow_iff_left two_ne_zero

end

/-- Settles O25: what `le_scale_iff` says is that the scale is the greatest number that fits (R123). -/
theorem scaleIsTheFloorOfTheRealRoot : Obligations.ScaleIsTheFloorOfTheRealRoot := by
  refine ⟨fun N A hA => floor_sqrt_div_eq_isqrt hA, fun s t h => ⟨?real, ?fits, ?greatest⟩⟩
  case real => exact (exec_calcscale_scale h).trans (floor_sqrt_div_eq_isqrt (by decide)).symm
  case fits => exact scale_sq_mul_le h
  case greatest => exact fun r hr => (le_scale_iff h).2 hr

/-! ## The laws of the scale -/

/-- Enlarging the window never lowers the scale (R124 item (a)). -/
theorem scale_le_scale {s s' t t' : State} (hW : s.winW.toNat ≤ s'.winW.toNat) (hH : s.winH.toNat ≤ s'.winH.toNat)
    (h : exec .calcscale s = .next t) (h' : exec .calcscale s' = .next t') : t.scale.toNat ≤ t'.scale.toNat :=
  (le_scale_iff h').2 ((scale_sq_mul_le h).trans (Nat.mul_le_mul hW hH))

/-- The picture fills the window's pixel count exactly when that count is the source's times a square (R124 item (d)). -/
theorem scale_sq_mul_eq_iff {s t : State} (h : exec .calcscale s = .next t) :
    t.scale.toNat ^ 2 * (64 * 32) = windowArea s ↔ ∃ m, windowArea s = 64 * 32 * m ^ 2 := by
  constructor
  · intro heq
    exact ⟨t.scale.toNat, by rw [← heq, Nat.mul_comm]⟩
  · rintro ⟨m, hm⟩
    rw [scale_eq_of_windowArea h hm, hm, Nat.mul_comm]

/-- An `EXPAND` that goes on at a legal scale has rebuilt the pixel buffer, whatever the parameters (41 R140, R141). -/
theorem expandWith_next_of_legal_scale {P : Config.Params} {s t : State} (hlo : 1 ≤ s.scale.toNat)
    (hhi : s.scale.toNat ≤ P.maxScale) (h : expandWith P s = .next t) : t = expanded s.scale.toNat s := by
  have hcheck := (checkScale_eq_none P.maxScale s.scale.toNat).2 ⟨hlo, hhi⟩
  rcases expandWith_cases P s with ⟨c, hc, _⟩ | ⟨_, _, hx⟩ | ⟨_, _, hx⟩
  · cases hcheck.symm.trans hc
  · exact Host.Outcome.next.inj (h.symm.trans hx)
  · cases h.symm.trans hx

/-- At scale 2 the picture is 128 × 64 (41 R140). -/
theorem expandWith_geometry_of_scale_two {P : Config.Params} {t u : State} (hscale : t.scale = 2#32)
    (hready : ReadyToExpandAt P t) (h : expandWith P t = .next u) :
    u.outW = 128#32 ∧ u.outH = 64#32 ∧ u.pixLen = 8192#32 := by
  obtain ⟨_, hlo, hhi⟩ := hready
  rw [expandWith_next_of_legal_scale hlo hhi h, hscale]
  exact ⟨rfl, rfl, rfl⟩

/-- Settles O26. The window of item (e) has 64 × 32 × 2² pixels, as many as a 128 × 64 one. -/
theorem scaleLaws : Obligations.ScaleLaws := by
  refine ⟨fun s s' t t' hW hH h h' => scale_le_scale hW hH h h',
    fun s t h => ⟨?one, ?multiple, scale_sq_mul_le h, scale_sq_mul_eq_iff h, ?window⟩⟩
  case one => exact le_scale_iff h
  case multiple =>
    intro m hW hH
    exact scale_eq_of_windowArea h (by rw [windowArea, hW, hH]; ring)
  case window =>
    intro hW hH
    have hscale : t.scale = 2#32 := BitVec.eq_of_toNat_eq (scale_eq_of_windowArea h (by rw [windowArea, hW, hH]; rfl))
    refine ⟨hscale, fun P u hready hu => ?_⟩
    obtain ⟨houtW, houtH, hpixLen⟩ := expandWith_geometry_of_scale_two hscale hready hu
    refine ⟨houtW, houtH, hpixLen, ?_, ?_⟩
    · rw [hpixLen]
      rfl
    · rw [houtW, hW]
      decide

end Sys2Proof.Machine
end

section
/-! PROOFS. The expander (spec/41_expander.md): the scale check (R141), the closed form of the pixel buffer (R147, R148),
all or nothing (R149), and what `EXPAND` leaves alone (R151). -/

namespace Sys2Proof.Machine

open Sys2Proof.Safety

/-! ## What `EXPAND` does -/

section
variable {s t : State}

/-- The state is ready when it passes both checks of `EXPAND` (41 R140, R141). -/
theorem readyToExpand_iff :
    ReadyToExpand s ↔ s.frame.whole = true ∧ checkScale Config.params.maxScale s.scale.toNat = none :=
  and_congr (Memory.whole_iff s.frame).symm (checkScale_eq_none _ _).symm

/-- A scale that the check refuses is a command fault, whatever the frame (60_exceptions R192). -/
theorem exec_expand_of_checkScale {c : CommandFault}
    (h : checkScale Config.params.maxScale s.scale.toNat = some c) :
    exec .expand s = .next (raiseCommandFault c s) := by
  rcases expandWith_cases Config.params s with ⟨c', hc, hx⟩ | ⟨hnone, _⟩ | ⟨hnone, _⟩
  · obtain rfl : c' = c := Option.some.inj (hc.symm.trans h)
    exact hx
  · cases hnone.symm.trans h
  · cases hnone.symm.trans h

/-- Past the scale check `EXPAND` rebuilds the pixel buffer or, over a frame that is not whole, stops. -/
theorem exec_expand_of_legal_scale (h : checkScale Config.params.maxScale s.scale.toNat = none) :
    (ReadyToExpand s ∧ exec .expand s = .next (expanded s.scale.toNat s)) ∨
      (¬ ReadyToExpand s ∧ exec .expand s = .fault .unwrittenFrame) := by
  rcases expandWith_cases Config.params s with ⟨c, hc, _⟩ | ⟨_, hwhole, hx⟩ | ⟨_, hwhole, hx⟩
  · cases h.symm.trans hc
  · exact .inl ⟨readyToExpand_iff.2 ⟨hwhole, h⟩, hx⟩
  · refine .inr ⟨fun hready => ?_, hx⟩
    cases hwhole.symm.trans (readyToExpand_iff.1 hready).1

/-- A ready state completes its `EXPAND`. -/
theorem exec_expand_of_ready (h : ReadyToExpand s) : exec .expand s = .next (expanded s.scale.toNat s) := by
  rcases exec_expand_of_legal_scale (readyToExpand_iff.1 h).2 with ⟨_, hx⟩ | ⟨hnot, _⟩
  · exact hx
  · exact absurd h hnot

/-- Everything an `EXPAND` that goes on can have done. -/
theorem exec_expand_next_cases (h : exec .expand s = .next t) :
    (ReadyToExpand s ∧ t = expanded s.scale.toNat s) ∨
      ∃ c, checkScale Config.params.maxScale s.scale.toNat = some c ∧ t = raiseCommandFault c s := by
  cases hcheck : checkScale Config.params.maxScale s.scale.toNat with
  | some c => exact .inr ⟨c, rfl, Host.Outcome.next.inj (h.symm.trans (exec_expand_of_checkScale hcheck))⟩
  | none =>
    rcases exec_expand_of_legal_scale hcheck with ⟨hready, _⟩ | ⟨_, hx⟩
    · exact .inl ⟨hready, exec_expand_next_of_ready hready h⟩
    · cases h.symm.trans hx

end

/-! ## The scale check -/

theorem checkScale_of_eq_zero {maxScale k : Nat} (h : k = 0) : checkScale maxScale k = some .scaleZero := if_pos h

theorem checkScale_of_gt {maxScale k : Nat} (h : k > maxScale) : checkScale maxScale k = some .scaleTooLarge :=
  (if_neg (by omega)).trans (if_pos h)

/-- Settles O27, range by range of the scale (R141). -/
theorem expandChecksTheScale : Obligations.ExpandChecksTheScale := by
  refine fun s => ⟨fun h => ?zero, fun h => ?tooLarge, fun hlo hhi => ?legal⟩
  case zero => exact exec_expand_of_checkScale (checkScale_of_eq_zero h)
  case tooLarge => exact exec_expand_of_checkScale (checkScale_of_gt h)
  case legal =>
    rcases exec_expand_of_legal_scale ((checkScale_eq_none _ _).2 ⟨hlo, hhi⟩) with ⟨_, hx⟩ | ⟨hnot, hx⟩
    · exact .inr ⟨_, hx, expanded_status _ s, expanded_cause _ s⟩
    · exact .inl ⟨hx, hnot⟩

/-! ## The closed form -/

/-- The pixel buffer of a ready state has `k² × 64 × 32` words, a number that fits the 32 bits of `PIX_LEN`. -/
theorem expanded_words_lt {s : State} (h : ReadyToExpand s) : s.scale.toNat ^ 2 * 64 * 32 < 2 ^ 32 := by
  obtain ⟨_, _, hhi⟩ := h
  have hmax : s.scale.toNat ≤ 723 := hhi.trans Config.params.maxScale_bounds.2
  calc s.scale.toNat ^ 2 * 64 * 32 ≤ 723 ^ 2 * 64 * 32 := by gcongr
    _ < 2 ^ 32 := by norm_num

/-- Both spellings of the number of words of the scan. -/
theorem scan_words_eq (k : Nat) : k * k * Config.srcW * Config.srcH = k ^ 2 * 64 * 32 := by
  rw [sq]
  rfl

/-- The source pixel of output pixel `(X, Y)` lies in byte `X div k div 8` of the 8 bytes of row `Y div k` (41 R143). -/
theorem sourceByteIndex_spec {k X Y : Nat} (hX : X < 64 * k) (hY : Y < 32 * k) :
    sourceByteIndex (X / k) (Y / k) < 256 ∧ sourceByteIndex (X / k) (Y / k) / 8 = Y / k ∧
      sourceByteIndex (X / k) (Y / k) % 8 = X / k / 8 := by
  have hsx : X / k < 64 := Nat.div_lt_of_lt_mul (by rwa [Nat.mul_comm])
  have hsy : Y / k < 32 := Nat.div_lt_of_lt_mul (by rwa [Nat.mul_comm])
  have hindex : sourceByteIndex (X / k) (Y / k) = Y / k * 8 + X / k / 8 := rfl
  generalize X / k = sx, Y / k = sy at *
  omega

/-- Output pixel `(X, Y)` is word `(X mod 8 k, Y mod k)` of the `8 k × k` words made from the frame byte of source pixel
`(X div k, Y div k)` (41 R147). -/
theorem expandScan_pixel (m : Memory) (off on : Word) {k X Y : Nat} {b : Byte} (hX : X < 64 * k) (hY : Y < 32 * k)
    (hb : m.read (sourceByteIndex (X / k) (Y / k)) = some b) :
    (expandScan m off on k)[Y * (64 * k) + X]? = some (if b.getLsbD (7 - X / k % 8) then on else off) := by
  have hk : 0 < k := by omega
  obtain ⟨hlt, hrow, hcol⟩ := sourceByteIndex_spec hX hY
  have hsegment : X / k / 8 = X / (8 * k) := by rw [Nat.div_div_eq_div_mul, Nat.mul_comm k 8]
  have hbit : X % (8 * k) / k = X / k % 8 := Nat.mod_mul_left_div_self X k 8
  have hword := expandScan_byte m off on hlt hb (Nat.mod_lt X (Nat.mul_pos (by decide) hk)) (Nat.mod_lt Y hk)
  rwa [hrow, hcol, hsegment, Nat.add_assoc, Nat.div_add_mod', Nat.div_add_mod', hbit] at hword

/-- The closed form over a ready state, whose frame has the byte that it asks for. -/
theorem expanded_pixel {s : State} (h : ReadyToExpand s) {X Y : Nat} (hX : X < 64 * s.scale.toNat)
    (hY : Y < 32 * s.scale.toNat) :
    ∃ b, s.frame.read (sourceByteIndex (X / s.scale.toNat) (Y / s.scale.toNat)) = some b ∧
      (expanded s.scale.toNat s).pixbuf[Y * (64 * s.scale.toNat) + X]? =
        some (if b.getLsbD (7 - X / s.scale.toNat % 8) then s.colorOn else s.colorOff) := by
  obtain ⟨hlt, _⟩ := sourceByteIndex_spec hX hY
  obtain ⟨b, hb⟩ := h.1 _ hlt
  exact ⟨b, hb, expandScan_pixel s.frame s.colorOff s.colorOn hX hY hb⟩

/-- Settles O28. The word at index `j` is the pixel `(j mod 64 k, j div 64 k)` (R147). -/
theorem expandBuildsTheClosedForm : Obligations.ExpandBuildsTheClosedForm := by
  rintro s k rfl h
  refine ⟨(expanded s.scale.toNat s).pixbuf, ?completes, ?length, expanded_words_lt h,
    fun X Y hX hY => expanded_pixel h hX hY, fun j hj => ?index⟩
  case completes =>
    rw [exec_expand_of_ready h, ← scan_words_eq]
    rfl
  case length => rw [expanded_pixbuf, length_expandScan, scan_words_eq]
  case index =>
    have hX : j % (64 * s.scale.toNat) < 64 * s.scale.toNat :=
      Nat.mod_lt j (Nat.mul_pos (by decide) h.2.1)
    have hY : j / (64 * s.scale.toNat) < 32 * s.scale.toNat :=
      Nat.div_lt_of_lt_mul (hj.trans_eq (by ring))
    have hpixel := expanded_pixel h hX hY
    rwa [Nat.div_add_mod'] at hpixel

/-! ## All or nothing -/

theorem palette_eq_or (off on : Word) (b : Bool) : palette off on b = off ∨ palette off on b = on := by
  cases b
  · exact .inl rfl
  · exact .inr rfl

/-- The scan writes colours of the palette only (41 R144). -/
theorem eq_or_of_mem_expandScan {m : Memory} {off on w : Word} {k : Nat} (h : w ∈ expandScan m off on k) :
    w = off ∨ w = on := by
  obtain ⟨sy, _, hrow⟩ := List.mem_flatMap.1 h
  obtain ⟨row, hcopy, hw⟩ := List.mem_flatten.1 hrow
  obtain rfl := List.eq_of_mem_replicate hcopy
  obtain ⟨bx, _, hbyte⟩ := List.mem_flatMap.1 hw
  obtain ⟨i, _, hpixel⟩ := List.mem_flatMap.1 hbyte
  rw [List.eq_of_mem_replicate hpixel]
  exact palette_eq_or off on _

/-- Settles O29: a ready `EXPAND` rebuilds the whole buffer, and a fault of the scale check keeps it (R149). -/
theorem expandIsAllOrNothing : Obligations.ExpandIsAllOrNothing := by
  intro s t h
  rcases exec_expand_next_cases h with ⟨hready, rfl⟩ | ⟨c, hc, rfl⟩
  case inl =>
    have hwords : s.scale.toNat ^ 2 * 64 * 32 = s.scale.toNat ^ 2 * 2048 := by ring
    refine .inl ⟨hready, ?length, ?pixLen, fun w hw => eq_or_of_mem_expandScan hw⟩
    case length => rw [expanded_pixbuf, length_expandScan, scan_words_eq, hwords]
    case pixLen =>
      rw [expanded_pixLen, scan_words_eq, BitVec.toNat_ofNat, Nat.mod_eq_of_lt (expanded_words_lt hready), hwords]
  case inr =>
    refine .inr ⟨?_, rfl, rfl⟩
    rcases checkScale_eq_some hc with ⟨_, hzero⟩ | ⟨_, hlarge⟩
    · exact .inl hzero
    · exact .inr hlarge

/-! ## Inputs -/

/-- What `EXPAND` writes is no input of `EXPAND`, so a second one of the same scale writes the same (41 R151). -/
theorem expanded_expanded (k : Nat) (s : State) : expanded k (expanded k s) = expanded k s := rfl

/-- A state that has been expanded is ready again. -/
theorem readyToExpand_expanded {k : Nat} {s : State} (h : ReadyToExpand s) : ReadyToExpand (expanded k s) := h

/-- Settles O30: neither the fault nor the success writes an input (R151). -/
theorem expandLeavesItsInputsAlone : Obligations.ExpandLeavesItsInputsAlone := by
  intro s t h
  rcases exec_expand_next_cases h with ⟨hready, rfl⟩ | ⟨c, hc, rfl⟩
  · refine ⟨expanded_frame _ s, expanded_scale _ s, expanded_colorOff _ s, expanded_colorOn _ s, expanded_winW _ s,
      expanded_winH _ s, expanded_pending _ s, fun _ => ⟨expanded_status _ s, expanded_cause _ s, ?_⟩⟩
    exact ⟨_, exec_expand_of_ready (readyToExpand_expanded hready), expanded_expanded _ s⟩
  · refine ⟨raiseCommandFault_frame c s, raiseCommandFault_scale c s, raiseCommandFault_colorOff c s,
      raiseCommandFault_colorOn c s, raiseCommandFault_winW c s, raiseCommandFault_winH c s,
      raiseCommandFault_pending c s, fun hready => ?_⟩
    cases hc.symm.trans (readyToExpand_iff.1 hready).2

end Sys2Proof.Machine
end

section
/-! PROOFS. The control commands (spec/42_control_commands.md): `CLRERR` alone clears the error record besides a reset
(R170), and a reserved command word is `IllegalCommand` (R171). -/

namespace Sys2Proof

/-! ## The decoder gives a write of `CMD` as its command -/

/-- No command is a register write. -/
theorem Command.instr_ne_wrreg (c : Command) (n : Reg) (v : Word) : c.instr ≠ .wrreg n v := by
  cases c <;> exact Instr.noConfusion

/-- A write of `CMD` is decoded as the command that the data word encodes (30_encoding R90). -/
theorem decodeRegisterWrite_ne_wrreg_cmd (n : Reg) (w v : Word) : decodeRegisterWrite n w ≠ .wrreg .cmd v := by
  cases n with
  | cmd => exact Command.instr_ne_wrreg (commandOf w) .cmd v
  | _ => simp [decodeRegisterWrite]

theorem decodeRegister_ne_wrreg_cmd (tr : Transaction) (v : Word) : decodeRegister tr ≠ .ok (.wrreg .cmd v) := by
  unfold decodeRegister
  split
  · exact Decoded.noConfusion
  · split
    · simp
    · exact fun h => decodeRegisterWrite_ne_wrreg_cmd _ _ v (Decoded.ok.inj h)

/-- The name `WRREG CMD` never comes out of the decoder. -/
theorem decode_ne_wrreg_cmd (tr : Transaction) (v : Word) : decode tr ≠ .ok (.wrreg .cmd v) := by
  have hframe : decodeFrame tr ≠ .ok (.wrreg .cmd v) := by
    unfold decodeFrame
    split <;> simp
  have hpixel : decodePixel tr ≠ .ok (.wrreg .cmd v) := by
    unfold decodePixel
    split <;> simp
  have hregister := decodeRegister_ne_wrreg_cmd tr v
  simp only [decode, decodeAt]
  split_ifs
  · exact Decoded.noConfusion
  · exact Decoded.noConfusion
  · exact Decoded.noConfusion
  · cases regionOf Config.params tr.a with
    | reg => exact hregister
    | frame => exact hframe
    | pixbuf => exact hpixel
    | reserved => exact Decoded.noConfusion

end Sys2Proof

namespace Sys2Proof.Machine

/-! ## `CLRERR` -/

theorem CommandFault.code_ne_zero (c : CommandFault) : c.code ≠ 0#32 := by cases c <;> decide

/-- `CLRERR` is the return from a command fault (R170). -/
theorem exec_clrerr (s : State) : exec .clrerr s = .next (clearCommandFault s) := rfl

/-- What an operation that goes on does to the error record: it leaves it, takes a command fault, or returns from one. -/
theorem exec_next_errorRecord {i : Instr} {s t : State} (h : exec i s = .next t) :
    (t.status = s.status ∧ t.cause = s.cause) ∨ (∃ c, t = raiseCommandFault c s) ∨
      (t = clearCommandFault s ∧ (i = .clrerr ∨ i = .wrreg .cmd 3#32)) := by
  rcases exec_next_cases h with ⟨r, rfl⟩ | hfault | hclear | ⟨n, v, s', hs, _, rfl⟩ | ⟨rfl, _⟩ | ⟨rfl, _⟩ |
    ⟨j, b, _, rfl⟩
  · exact .inl ⟨State_respond_status r s, State_respond_cause r s⟩
  · exact .inr (.inl hfault)
  · exact .inr (.inr hclear)
  · obtain ⟨hstatus, hcause, _⟩ := storeRegister_keeps hs
    exact .inl ⟨hstatus, hcause⟩
  · rw [calcscaleWith_eq _ _ s (by decide)]
    exact .inl ⟨rfl, rfl⟩
  · exact .inl ⟨expanded_status _ s, expanded_cause _ s⟩
  · exact .inl ⟨rfl, rfl⟩

/-- From `s` to `t`, `ERR` is cleared or a non-zero `CAUSE` becomes 0. -/
def ClearsErrorRecord (s t : State) : Prop :=
  (s.status.getLsbD 0 = true ∧ t.status.getLsbD 0 = false) ∨ (s.cause ≠ 0#32 ∧ t.cause = 0#32)

theorem not_clearsErrorRecord_of_eq {s t : State} (hstatus : t.status = s.status) (hcause : t.cause = s.cause) :
    ¬ ClearsErrorRecord s t := by
  rintro (⟨hset, hclear⟩ | ⟨hne, hzero⟩)
  · rw [hstatus, hset] at hclear
    cases hclear
  · exact hne (hcause.symm.trans hzero)

/-- A command fault sets `ERR` and a non-zero code (60_exceptions R181, R186). -/
theorem not_clearsErrorRecord_raiseCommandFault (c : CommandFault) (s' s : State) :
    ¬ ClearsErrorRecord s' (raiseCommandFault c s) := by
  rintro (⟨_, hclear⟩ | ⟨_, hzero⟩)
  · cases (raiseCommandFault_err c s).symm.trans hclear
  · exact c.code_ne_zero hzero

/-- Only `CLRERR`, under either of its names, clears the error record. -/
theorem exec_clearsErrorRecord {i : Instr} {s t : State} (h : exec i s = .next t) (hclear : ClearsErrorRecord s t) :
    i = .clrerr ∨ i = .wrreg .cmd 3#32 := by
  rcases exec_next_errorRecord h with ⟨hstatus, hcause⟩ | ⟨c, rfl⟩ | ⟨_, hi⟩
  · exact absurd hclear (not_clearsErrorRecord_of_eq hstatus hcause)
  · exact absurd hclear (not_clearsErrorRecord_raiseCommandFault c s s)
  · exact hi

/-- A step that clears the error record takes a reset event or a transaction that decodes to `CLRERR`. -/
theorem step_clearsErrorRecord {s t : State} (h : step s = .next t) (hclear : ClearsErrorRecord s t) :
    ∃ e rest, s.pending = e :: rest ∧ (e = .reset ∨ ∃ tr, e = .bus tr ∧ decode tr = .ok .clrerr) := by
  rcases step_cases h with ⟨_, rfl⟩ | ⟨rest, hp, _⟩ | ⟨tr, rest, i, hp, hd, hx⟩ | ⟨tr, rest, r, _, _, rfl⟩
  · exact absurd hclear (not_clearsErrorRecord_of_eq rfl rfl)
  · exact ⟨_, rest, hp, .inl rfl⟩
  · rcases exec_clearsErrorRecord hx hclear with rfl | rfl
    · exact ⟨_, rest, hp, .inr ⟨tr, rfl, hd⟩⟩
    · exact absurd hd (decode_ne_wrreg_cmd tr 3#32)
  · exact absurd hclear (not_clearsErrorRecord_of_eq (refuseAccess_status r _) (refuseAccess_cause r _))

/-- Settles O8: `CLRERR` clears `ERR` and `CAUSE`, and a step that clears either is a reset or `CLRERR` (R170). -/
theorem clrerrAloneClearsTheErrorFlag : Obligations.ClrerrAloneClearsTheErrorFlag :=
  ⟨fun s => ⟨exec_clrerr s, clearCommandFault_err s⟩, rfl, fun _ _ => step_clearsErrorRecord⟩

/-! ## Reserved command words -/

/-- Every word but 1, 2 and 3 is reserved (30_encoding R93). -/
theorem commandOf_of_reserved {w : Word} (h1 : w ≠ 1#32) (h2 : w ≠ 2#32) (h3 : w ≠ 3#32) :
    commandOf w = .illegal w := by
  rcases commandOf_cases w with ⟨h, _⟩ | ⟨h, _⟩ | ⟨h, _⟩ | ⟨_, _, _, hc⟩
  · exact absurd h h1
  · exact absurd h h2
  · exact absurd h h3
  · exact hc

/-- Settles O35: written by `WRREG CMD`, a reserved word runs the operation it decodes to (R171, R185). -/
theorem reservedWordsAreIllegalCommands : Obligations.ReservedWordsAreIllegalCommands := by
  intro w s h1 h2 h3
  have hc : commandOf w = .illegal w := commandOf_of_reserved h1 h2 h3
  refine ⟨exec_cmdwordReserved w s, ?wrreg, raiseCommandFault_err .illegalCommand s, ?decoded⟩
  case wrreg =>
    rw [exec_wrreg_cmd, executeCommand_eq_exec, hc]
    exact exec_cmdwordReserved w s
  case decoded =>
    exact (decode_commandWrite w).trans (congrArg (Decoded.ok ·.instr) hc)

end Sys2Proof.Machine
end

section
/-! PROOFS. The transactions (spec/20_memory.md, R64, R65; spec/30_encoding.md, R91): what the decoder does at each
place of the flat map, and that it reads back every encoding and nothing else. -/

namespace Sys2Proof

/-! ## The order of the decoder's checks -/

section
variable {tr : Transaction}

theorem decode_of_reserved (hregion : regionOf Config.params tr.a = .reserved) :
    decode tr = .refused .unmapped := if_pos hregion

theorem decode_of_size_ne (hregion : regionOf Config.params tr.a ≠ .reserved)
    (hsize : tr.size ≠ (regionOf Config.params tr.a).accessSize) : decode tr = .refused .badSize :=
  (if_neg hregion).trans (if_pos hsize)

theorem decode_of_misaligned (hregion : regionOf Config.params tr.a ≠ .reserved)
    (hsize : tr.size = (regionOf Config.params tr.a).accessSize) (hfour : tr.size = .four)
    (halign : tr.a.toNat % 4 ≠ 0) : decode tr = .refused .misaligned :=
  (if_neg hregion).trans ((if_neg (not_not.2 hsize)).trans (if_pos ⟨hfour, halign⟩))

theorem decode_of_reg (hregion : regionOf Config.params tr.a = .reg) (hsize : tr.size = .four)
    (halign : tr.a.toNat % 4 = 0) : decode tr = decodeRegister tr := by
  simp [decode, decodeAt, hregion, hsize, halign, Region.accessSize]

theorem decode_of_frame (hregion : regionOf Config.params tr.a = .frame) (hsize : tr.size = .one) :
    decode tr = decodeFrame tr := by
  simp [decode, decodeAt, hregion, hsize, Region.accessSize]

theorem decode_of_pixbuf (hregion : regionOf Config.params tr.a = .pixbuf) (hsize : tr.size = .four)
    (halign : tr.a.toNat % 4 = 0) : decode tr = decodePixel tr := by
  simp [decode, decodeAt, hregion, hsize, halign, Region.accessSize]

/-- Everything the decoder can do, in the order of its checks (20_memory R65). -/
theorem decode_cases (tr : Transaction) :
    (regionOf Config.params tr.a = .reserved ∧ decode tr = .refused .unmapped) ∨
      (regionOf Config.params tr.a ≠ .reserved ∧ tr.size ≠ (regionOf Config.params tr.a).accessSize ∧
        decode tr = .refused .badSize) ∨
      ((regionOf Config.params tr.a = .reg ∨ regionOf Config.params tr.a = .pixbuf) ∧ tr.size = .four ∧
        tr.a.toNat % 4 ≠ 0 ∧ decode tr = .refused .misaligned) ∨
      (regionOf Config.params tr.a = .reg ∧ tr.size = .four ∧ tr.a.toNat % 4 = 0 ∧ decode tr = decodeRegister tr) ∨
      (regionOf Config.params tr.a = .frame ∧ tr.size = .one ∧ decode tr = decodeFrame tr) ∨
      (regionOf Config.params tr.a = .pixbuf ∧ tr.size = .four ∧ tr.a.toNat % 4 = 0 ∧ decode tr = decodePixel tr) := by
  by_cases hsize : tr.size = (regionOf Config.params tr.a).accessSize
  · cases hregion : regionOf Config.params tr.a with
    | reserved => exact .inl ⟨rfl, decode_of_reserved hregion⟩
    | frame =>
      have hone : tr.size = .one := by rw [hsize, hregion]; rfl
      exact .inr (.inr (.inr (.inr (.inl ⟨rfl, hone, decode_of_frame hregion hone⟩))))
    | reg =>
      have hfour : tr.size = .four := by rw [hsize, hregion]; rfl
      by_cases halign : tr.a.toNat % 4 = 0
      · exact .inr (.inr (.inr (.inl ⟨rfl, hfour, halign, decode_of_reg hregion hfour halign⟩)))
      · exact .inr (.inr (.inl ⟨.inl rfl, hfour, halign, decode_of_misaligned (by simp [hregion]) hsize hfour halign⟩))
    | pixbuf =>
      have hfour : tr.size = .four := by rw [hsize, hregion]; rfl
      by_cases halign : tr.a.toNat % 4 = 0
      · exact .inr (.inr (.inr (.inr (.inr ⟨rfl, hfour, halign, decode_of_pixbuf hregion hfour halign⟩))))
      · exact .inr (.inr (.inl ⟨.inr rfl, hfour, halign, decode_of_misaligned (by simp [hregion]) hsize hfour halign⟩))
  · by_cases hregion : regionOf Config.params tr.a = .reserved
    · exact .inl ⟨hregion, decode_of_reserved hregion⟩
    · exact .inr (.inl ⟨hregion, hsize, decode_of_size_ne hregion hsize⟩)

end

/-! ## The regions as ranges -/

theorem regionOf_eq_reg_iff (P : Config.Params) (a : Word) : regionOf P a = .reg ↔ a.toNat < 0x38 := by
  rcases regionOf_spec P a with ⟨h, _⟩ | ⟨h, _⟩ | ⟨h, _⟩ | ⟨h, _⟩ <;> rw [h] <;> simp <;> omega

theorem regionOf_eq_frame_iff (P : Config.Params) (a : Word) :
    regionOf P a = .frame ↔ 0x100 ≤ a.toNat ∧ a.toNat < 0x200 := by
  rcases regionOf_spec P a with ⟨h, _⟩ | ⟨h, _⟩ | ⟨h, _⟩ | ⟨h, _⟩ <;> rw [h] <;> simp <;> omega

theorem regionOf_eq_pixbuf_iff (P : Config.Params) (a : Word) :
    regionOf P a = .pixbuf ↔ 0x100000 ≤ a.toNat ∧ a.toNat < 0x100000 + 4 * P.pixbufWords := by
  rcases regionOf_spec P a with ⟨h, _⟩ | ⟨h, _⟩ | ⟨h, _⟩ | ⟨h, _⟩ <;> rw [h] <;> simp <;> omega

theorem regionOf_eq_reserved_iff (P : Config.Params) (a : Word) :
    regionOf P a = .reserved ↔ (0x38 ≤ a.toNat ∧ a.toNat < 0x100) ∨ (0x200 ≤ a.toNat ∧ a.toNat < 0x100000) ∨
      0x100000 + 4 * P.pixbufWords ≤ a.toNat := by
  rcases regionOf_spec P a with ⟨h, _⟩ | ⟨h, _⟩ | ⟨h, _⟩ | ⟨h, _⟩ <;> rw [h] <;> simp <;> omega

/-! ## Offsets and places -/

theorem regionOf_offset (n : Reg) : regionOf Config.params n.offset = .reg := by
  have := n.index_le
  rw [regionOf_eq_reg_iff, Reg.offset_toNat]
  omega

theorem regionOf_frameOffset (i : Byte) : regionOf Config.params (frameOffset i) = .frame := by
  have := i.isLt
  rw [regionOf_eq_frame_iff, frameOffset_toNat]
  omega

theorem regionOf_pixelOffset {k : Nat} (hk : k < Config.params.pixbufWords) :
    regionOf Config.params (pixelOffset k) = .pixbuf := by
  rw [regionOf_eq_pixbuf_iff, pixelOffset_toNat _ hk]
  omega

/-- An aligned offset in REG is a register's. -/
theorem exists_eq_offset {a : Word} (hregion : regionOf Config.params a = .reg) (halign : a.toNat % 4 = 0) :
    ∃ n : Reg, a = n.offset := by
  rw [regionOf_eq_reg_iff] at hregion
  obtain ⟨n, hn⟩ := Reg.ofIndex_isSome (k := a.toNat / 4) (by omega)
  have hindex := Reg.index_of_ofIndex hn
  exact ⟨n, BitVec.eq_of_toNat_eq (by rw [Reg.offset_toNat]; omega)⟩

/-- An offset in FRAME is a byte's. -/
theorem exists_eq_frameOffset {a : Word} (hregion : regionOf Config.params a = .frame) :
    ∃ i : Byte, a = frameOffset i := by
  rw [regionOf_eq_frame_iff] at hregion
  refine ⟨BitVec.ofNat 8 (a.toNat - 0x100), BitVec.eq_of_toNat_eq ?_⟩
  rw [frameOffset_toNat, BitVec.toNat_ofNat]
  omega

/-- An aligned offset in PIXBUF is a word's. -/
theorem exists_eq_pixelOffset {a : Word} (hregion : regionOf Config.params a = .pixbuf) (halign : a.toNat % 4 = 0) :
    ∃ k, k < Config.params.pixbufWords ∧ a = pixelOffset k := by
  rw [regionOf_eq_pixbuf_iff] at hregion
  have hk : (a.toNat - 0x100000) / 4 < Config.params.pixbufWords := by omega
  refine ⟨_, hk, BitVec.eq_of_toNat_eq ?_⟩
  rw [pixelOffset_toNat _ hk]
  omega

/-- The low byte of a frame byte's offset is its index (30_encoding R91). -/
theorem extractLsb'_frameOffset (i : Byte) : (frameOffset i).extractLsb' 0 8 = i := by
  have := i.isLt
  apply BitVec.eq_of_toNat_eq
  rw [BitVec.extractLsb'_toNat, frameOffset_toNat, Nat.shiftRight_zero]
  omega

/-! ## What an accepted access decodes to -/

theorem decodeRegister_offset (d : Dir) (z : Size) (n : Reg) (w : Word) :
    decodeRegister ⟨d, z, n.offset, w⟩ =
      match d with
      | .read => .ok (.rdreg n)
      | .write => .ok (decodeRegisterWrite n w) := by
  have hindex : n.offset.toNat / 4 = n.index := by rw [Reg.offset_toNat]; omega
  cases d <;> simp only [decodeRegister, hindex, Reg.ofIndex_index]

theorem decode_register_read (n : Reg) (w : Word) : decode ⟨.read, .four, n.offset, w⟩ = .ok (.rdreg n) :=
  (decode_of_reg (regionOf_offset n) rfl (by rw [Reg.offset_toNat]; omega)).trans (decodeRegister_offset ..)

theorem decode_register_write (n : Reg) (w : Word) :
    decode ⟨.write, .four, n.offset, w⟩ = .ok (decodeRegisterWrite n w) :=
  (decode_of_reg (regionOf_offset n) rfl (by rw [Reg.offset_toNat]; omega)).trans (decodeRegister_offset ..)

theorem decode_frame_read (i : Byte) (w : Word) : decode ⟨.read, .one, frameOffset i, w⟩ = .ok (.rdframe i) := by
  rw [decode_of_frame (regionOf_frameOffset i) rfl, decodeFrame, extractLsb'_frameOffset]

theorem decode_frame_write (i : Byte) (w : Word) :
    decode ⟨.write, .one, frameOffset i, w⟩ = .ok (.wrframe i (w.extractLsb' 0 8)) := by
  rw [decode_of_frame (regionOf_frameOffset i) rfl, decodeFrame, extractLsb'_frameOffset]

section
variable {k : Nat} (hk : k < Config.params.pixbufWords) (w : Word)
include hk

theorem pixelOffset_aligned : (pixelOffset k).toNat % 4 = 0 := by
  rw [pixelOffset_toNat _ hk]
  omega

theorem decode_pixel_read : decode ⟨.read, .four, pixelOffset k, w⟩ = .ok (.rdpix k) := by
  have hindex : ((pixelOffset k).toNat - pixbufBase) / 4 = k := by
    rw [pixelOffset_toNat _ hk, pixbufBase]
    omega
  rw [decode_of_pixbuf (regionOf_pixelOffset hk) rfl (pixelOffset_aligned hk), decodePixel, hindex]

theorem decode_pixel_write : decode ⟨.write, .four, pixelOffset k, w⟩ = .refused .readOnly :=
  decode_of_pixbuf (regionOf_pixelOffset hk) rfl (pixelOffset_aligned hk)

end

/-! ## Decode of encode -/

theorem cmdwordReserved_wellFormed_iff (w : Word) :
    (Instr.cmdwordReserved w).wellFormed = true ↔ w ≠ 1#32 ∧ w ≠ 2#32 ∧ w ≠ 3#32 := by
  simp only [Instr.wellFormed, Instr.wellFormedAt, Bool.and_eq_true, bne_iff_ne, and_assoc]

/-- A reserved word is decoded as its own operation (30_encoding R95). -/
theorem commandOf_of_wellFormed {w : Word} (h : (Instr.cmdwordReserved w).wellFormed = true) :
    commandOf w = .illegal w := by
  obtain ⟨h1, h2, h3⟩ := (cmdwordReserved_wellFormed_iff w).1 h
  exact Machine.commandOf_of_reserved h1 h2 h3

theorem rdpix_wellFormed_iff (k : Nat) : (Instr.rdpix k).wellFormed = true ↔ k < Config.params.pixbufWords := by
  simp only [Instr.wellFormed, Instr.wellFormedAt, decide_eq_true_eq]

/-- A byte of write data in 32 bits is that byte (notes/assumptions/14.md). -/
theorem extractLsb'_setWidth_byte (b : Byte) : (b.setWidth 32).extractLsb' 0 8 = b := by
  apply BitVec.eq_of_toNat_eq
  have := b.isLt
  simp only [BitVec.extractLsb'_toNat, BitVec.toNat_setWidth, Nat.shiftRight_zero]
  omega

/-- The decoder reads back every well-formed operation, under its canonical name (30_encoding R91, R94). -/
theorem decode_encode (i : Instr) (h : i.wellFormed = true) : decode (encode i) = .ok i.canonical := by
  cases i with
  | calcscale => exact decode_commandWrite 1#32
  | expand => exact decode_commandWrite 2#32
  | clrerr => exact decode_commandWrite 3#32
  | cmdwordReserved w =>
    exact (decode_commandWrite w).trans (congrArg (Decoded.ok ·.instr) (commandOf_of_wellFormed h))
  | rdreg n => exact decode_register_read n 0#32
  | wrreg n v => exact decode_register_write n v
  | rdframe j => exact decode_frame_read j 0#32
  | wrframe j b =>
    exact (decode_frame_write j _).trans (congrArg (fun c => Decoded.ok (.wrframe j c)) (extractLsb'_setWidth_byte b))
  | rdpix k => exact decode_pixel_read ((rdpix_wellFormed_iff k).1 h) 0#32

theorem decodeRegisterWrite_of_ne_cmd {n : Reg} (h : n ≠ .cmd) (v : Word) : decodeRegisterWrite n v = .wrreg n v := by
  cases n with
  | cmd => exact absurd rfl h
  | _ => rfl

/-- Only a write of `CMD` has a name other than its own. -/
theorem Instr.canonical_eq_self {i : Instr} (h : ∀ v, i ≠ .wrreg .cmd v) : i.canonical = i := by
  cases i with
  | wrreg n v =>
    exact decodeRegisterWrite_of_ne_cmd (fun hn => h v (congrArg (Instr.wrreg · v) hn)) v
  | _ => rfl

/-- `WRREG CMD` and the command it carries have one meaning (20_memory R67). -/
theorem Machine.exec_canonical (i : Instr) (s : Machine.State) : Machine.exec i.canonical s = Machine.exec i s := by
  by_cases h : ∃ v, i = .wrreg .cmd v
  · obtain ⟨v, rfl⟩ := h
    exact ((exec_wrreg_cmd v s).trans (executeCommand_eq_exec v s)).symm
  · rw [Instr.canonical_eq_self fun v hv => h ⟨v, hv⟩]

/-- Settles O18: `decode_encode`, with what the canonical name is and means. -/
theorem decodeReadsBackEveryEncoding : Obligations.DecodeReadsBackEveryEncoding :=
  fun i h => ⟨decode_encode i h, Instr.canonical_eq_self, Machine.exec_canonical i⟩

/-- Settles O16: the words are the encodings of their operations, and word 2047 is there at every `MAX_SCALE`. -/
theorem wordsDecodeAsTheSpecEncodesThem : Obligations.WordsDecodeAsTheSpecEncodesThem := by
  have hword : 2047 < Config.params.pixbufWords := Config.params.pixbufWords_bounds.1
  exact ⟨decode_encode .calcscale rfl, decode_encode .expand rfl, decode_encode .clrerr rfl,
    decode_encode (.cmdwordReserved 0x102#32) rfl, decode_encode (.rdreg .maxScale) rfl,
    decode_encode (.wrreg .scale 0xffffffff#32) rfl, decode_encode (.rdframe 255#8) rfl,
    decode_encode (.wrframe 5#8 0x3c#8) rfl, decode_encode (.rdpix 2047) ((rdpix_wellFormed_iff _).2 hword)⟩

/-! ## Encode of decode -/

/-- Everything the decoder can accept: an access to a register, to a frame byte, or a read of a pixel word. -/
theorem decode_ok_cases {tr : Transaction} {i : Instr} (h : decode tr = .ok i) :
    (∃ d n w, tr = ⟨d, .four, Reg.offset n, w⟩) ∨ (∃ d j w, tr = ⟨d, .one, frameOffset j, w⟩) ∨
      ∃ k w, k < Config.params.pixbufWords ∧ tr = ⟨.read, .four, pixelOffset k, w⟩ := by
  obtain ⟨d, z, a, w⟩ := tr
  rcases decode_cases ⟨d, z, a, w⟩ with ⟨_, hd⟩ | ⟨_, _, hd⟩ | ⟨_, _, _, hd⟩ | ⟨hregion, rfl, halign, _⟩ |
    ⟨hregion, rfl, _⟩ | ⟨hregion, rfl, halign, _⟩
  · cases h.symm.trans hd
  · cases h.symm.trans hd
  · cases h.symm.trans hd
  · obtain ⟨n, rfl⟩ := exists_eq_offset hregion halign
    exact .inl ⟨d, n, w, rfl⟩
  · obtain ⟨j, rfl⟩ := exists_eq_frameOffset hregion
    exact .inr (.inl ⟨d, j, w, rfl⟩)
  · obtain ⟨k, hk, rfl⟩ := exists_eq_pixelOffset hregion halign
    cases d with
    | read => exact .inr (.inr ⟨k, w, hk, rfl⟩)
    | write => cases h.symm.trans (decode_pixel_write hk w)

/-- The command that a word selects is well formed, and its encoding writes that word (30_encoding R94). -/
theorem encode_commandOf (w : Word) :
    (commandOf w).instr.wellFormed = true ∧ encode (commandOf w).instr = commandWrite w := by
  rcases commandOf_cases w with ⟨rfl, _⟩ | ⟨rfl, _⟩ | ⟨rfl, _⟩ | ⟨h1, h2, h3, hc⟩
  · exact ⟨rfl, rfl⟩
  · exact ⟨rfl, rfl⟩
  · exact ⟨rfl, rfl⟩
  · rw [hc]
    exact ⟨(cmdwordReserved_wellFormed_iff w).2 ⟨h1, h2, h3⟩, rfl⟩

theorem encode_decodeRegisterWrite (n : Reg) (w : Word) :
    (decodeRegisterWrite n w).wellFormed = true ∧
      encode (decodeRegisterWrite n w) = ⟨.write, .four, n.offset, w⟩ := by
  by_cases h : n = .cmd
  · subst h
    exact encode_commandOf w
  · rw [decodeRegisterWrite_of_ne_cmd h]
    exact ⟨rfl, rfl⟩

/-- A read that carries no surplus bits carries no write data (20_memory R65). -/
theorem wdata_eq_zero_of_read {z : Size} {a w : Word} (h : (Transaction.mk .read z a w).wellFormed = true) :
    w = 0#32 := eq_of_beq h

/-- A byte write that carries no surplus bits carries one byte (20_memory R65). -/
theorem setWidth_extractLsb'_of_byte_write {a w : Word} (h : (Transaction.mk .write .one a w).wellFormed = true) :
    (w.extractLsb' 0 8).setWidth 32 = w := by
  have hlt : w.toNat < 2 ^ (8 * 1) := of_decide_eq_true h
  apply BitVec.eq_of_toNat_eq
  simp only [BitVec.toNat_setWidth, BitVec.extractLsb'_toNat, Nat.shiftRight_zero]
  omega

/-- Settles O19: each accepted transaction, without surplus bits, is the encoding it was decoded from. -/
theorem acceptedTransactionsAreEncodings : Obligations.AcceptedTransactionsAreEncodings := by
  intro tr i hwf h
  rcases decode_ok_cases h with ⟨d, n, w, rfl⟩ | ⟨d, j, w, rfl⟩ | ⟨k, w, hk, rfl⟩
  · cases d with
    | read =>
      obtain rfl := wdata_eq_zero_of_read hwf
      obtain rfl := Decoded.ok.inj ((decode_register_read n _).symm.trans h)
      exact ⟨rfl, rfl⟩
    | write =>
      obtain rfl := Decoded.ok.inj ((decode_register_write n w).symm.trans h)
      exact encode_decodeRegisterWrite n w
  · cases d with
    | read =>
      obtain rfl := wdata_eq_zero_of_read hwf
      obtain rfl := Decoded.ok.inj ((decode_frame_read j _).symm.trans h)
      exact ⟨rfl, rfl⟩
    | write =>
      obtain rfl := Decoded.ok.inj ((decode_frame_write j w).symm.trans h)
      exact ⟨rfl, congrArg (Transaction.mk .write .one (frameOffset j)) (setWidth_extractLsb'_of_byte_write hwf)⟩
  · obtain rfl := wdata_eq_zero_of_read hwf
    obtain rfl := Decoded.ok.inj ((decode_pixel_read hk _).symm.trans h)
    exact ⟨(rdpix_wellFormed_iff k).2 hk, rfl⟩

end Sys2Proof
end

section
/-! PROOFS. The refused transactions (spec/20_memory.md, R64, R65; spec/60_exceptions.md, R190). -/

namespace Sys2Proof

theorem decodeRegister_ne_refused {tr : Transaction} (hregion : regionOf Config.params tr.a = .reg)
    (halign : tr.a.toNat % 4 = 0) (r : AccessFault) : decodeRegister tr ≠ .refused r := by
  obtain ⟨d, z, a, w⟩ := tr
  obtain ⟨n, rfl⟩ := exists_eq_offset hregion halign
  rw [decodeRegister_offset]
  cases d <;> exact Decoded.noConfusion

theorem decodeFrame_ne_refused (tr : Transaction) (r : AccessFault) : decodeFrame tr ≠ .refused r := by
  unfold decodeFrame
  split <;> exact Decoded.noConfusion

theorem decodePixel_eq_refused_iff (tr : Transaction) (r : AccessFault) :
    decodePixel tr = .refused r ↔ tr.dir = .write ∧ r = .readOnly := by
  unfold decodePixel
  cases tr.dir <;> simp [eq_comm]

/-- When a transaction is refused for a reason: the first of the checks of 20_memory R65 that it does not pass. -/
def Refuses (tr : Transaction) : AccessFault → Prop
  | .unmapped => regionOf Config.params tr.a = .reserved
  | .badSize => regionOf Config.params tr.a ≠ .reserved ∧ tr.size ≠ (regionOf Config.params tr.a).accessSize
  | .misaligned =>
    (regionOf Config.params tr.a = .reg ∨ regionOf Config.params tr.a = .pixbuf) ∧ tr.size = .four ∧
      tr.a.toNat % 4 ≠ 0
  | .readOnly =>
    regionOf Config.params tr.a = .pixbuf ∧ tr.size = .four ∧ tr.a.toNat % 4 = 0 ∧ tr.dir = .write
  | .pixRange => False

theorem decode_of_refuses {tr : Transaction} {r : AccessFault} (h : Refuses tr r) : decode tr = .refused r := by
  cases r with
  | unmapped => exact decode_of_reserved h
  | badSize => exact decode_of_size_ne h.1 h.2
  | misaligned =>
    obtain ⟨hregion | hregion, hsize, halign⟩ := h <;>
      exact decode_of_misaligned (by simp [hregion]) (by rw [hregion]; exact hsize) hsize halign
  | readOnly =>
    obtain ⟨hregion, hsize, halign, hwrite⟩ := h
    exact (decode_of_pixbuf hregion hsize halign).trans ((decodePixel_eq_refused_iff tr _).2 ⟨hwrite, rfl⟩)
  | pixRange => exact h.elim

theorem refuses_of_decode {tr : Transaction} {r : AccessFault} (h : decode tr = .refused r) : Refuses tr r := by
  rcases decode_cases tr with ⟨hregion, hd⟩ | ⟨hregion, hsize, hd⟩ | ⟨hregion, hsize, halign, hd⟩ |
    ⟨hregion, _, halign, hd⟩ | ⟨_, _, hd⟩ | ⟨hregion, hsize, halign, hd⟩ <;> rw [hd] at h
  · obtain rfl := Decoded.refused.inj h
    exact hregion
  · obtain rfl := Decoded.refused.inj h
    exact ⟨hregion, hsize⟩
  · obtain rfl := Decoded.refused.inj h
    exact ⟨hregion, hsize, halign⟩
  · exact absurd h (decodeRegister_ne_refused hregion halign r)
  · exact absurd h (decodeFrame_ne_refused tr r)
  · obtain ⟨hwrite, rfl⟩ := (decodePixel_eq_refused_iff tr r).1 h
    exact ⟨hregion, hsize, halign, hwrite⟩

theorem decode_eq_refused_iff (tr : Transaction) (r : AccessFault) : decode tr = .refused r ↔ Refuses tr r :=
  ⟨refuses_of_decode, decode_of_refuses⟩

/-- FRAME is accessed by single bytes, REG and PIXBUF by words (20_memory R65). -/
theorem refuses_badSize_iff (tr : Transaction) :
    Refuses tr .badSize ↔ (regionOf Config.params tr.a = .frame ∧ tr.size ≠ .one) ∨
      ((regionOf Config.params tr.a = .reg ∨ regionOf Config.params tr.a = .pixbuf) ∧ tr.size ≠ .four) := by
  unfold Refuses
  cases regionOf Config.params tr.a <;> simp [Region.accessSize]

theorem Config.Params.pixbufWords_eq (P : Config.Params) : P.pixbufWords = P.maxScale ^ 2 * 2048 := rfl

/-- Settles O20: each reason of `Refuses`, its region written as the range of offsets of 20_memory R64. -/
theorem refusedTransactionsAndTheirReasons : Obligations.RefusedTransactionsAndTheirReasons := by
  intro tr
  have hreg := regionOf_eq_reg_iff Config.params tr.a
  have hframe := regionOf_eq_frame_iff Config.params tr.a
  have hpixbuf := regionOf_eq_pixbuf_iff Config.params tr.a
  have hreserved := regionOf_eq_reserved_iff Config.params tr.a
  rw [Config.Params.pixbufWords_eq] at hpixbuf hreserved
  refine ⟨?unmapped, ?badSize, ?misaligned, ?readOnly, ?pixRange⟩
  case unmapped => rw [decode_eq_refused_iff, Refuses, hreserved]
  case badSize => rw [decode_eq_refused_iff, refuses_badSize_iff, hreg, hframe, hpixbuf, and_assoc]
  case misaligned => rw [decode_eq_refused_iff, Refuses, hreg, hpixbuf]
  case readOnly => rw [decode_eq_refused_iff, Refuses, hpixbuf, and_assoc]
  case pixRange =>
    rw [ne_eq, decode_eq_refused_iff, Refuses]
    exact not_false

end Sys2Proof
end

section
/-! PROOFS. One step (spec/10_state.md, R40, R44; spec/70_reset_and_hazards.md, R210): what each event of the run does,
and how a transaction is answered (spec/60_exceptions.md, R180, R190). -/

namespace Sys2Proof.Machine

/-! ## The events of the run -/

section
variable {s : State} {tr : Transaction} {rest : List HostEvent}

theorem step_of_nil (h : s.pending = []) : step s = .next s := by
  simp only [step, h]

theorem step_of_reset (h : s.pending = .reset :: rest) : step s = .next (takeReset (s.withPending rest)) := by
  simp only [step, h]

theorem step_of_decode_ok {i : Instr} (h : s.pending = .bus tr :: rest) (hd : decode tr = .ok i) :
    step s = exec i (s.withPending rest) := by
  simp only [step, h, hd]

theorem step_of_decode_refused {r : AccessFault} (h : s.pending = .bus tr :: rest) (hd : decode tr = .refused r) :
    step s = .next (refuseAccess r (s.withPending rest)) := by
  simp only [step, h, hd]

end

/-- Settles O2: a reset event resets every field but the rest of the run (R210). -/
theorem resetEventGivesTheResetState : Obligations.ResetEventGivesTheResetState := fun _ _ => step_of_reset

/-- Settles O4: the operation runs on the state with its transaction taken off the run. -/
theorem stepRunsTheDecodedOperation : Obligations.StepRunsTheDecodedOperation := fun _ _ _ _ => step_of_decode_ok

/-- Settles O5: the third kind of step, with no event left. -/
theorem nothingChangesWithoutAnOperation : Obligations.NothingChangesWithoutAnOperation := fun _ => step_of_nil

/-! ## Responses -/

/-- A command is answered `ok` and takes nothing off the run, whether it succeeds or faults (60_exceptions R180). -/
theorem exec_command_answers_ok {c : Command} {s t : State} (h : exec c.instr s = .next t) :
    t.response = some .ok ∧ t.pending = s.pending := by
  cases c with
  | calcscale =>
    rw [Command.instr, exec_calcscale, calcscaleWith_eq _ _ s (by decide)] at h
    obtain rfl := Host.Outcome.next.inj h
    exact ⟨rfl, rfl⟩
  | expand =>
    rcases exec_expand_next_cases h with ⟨_, rfl⟩ | ⟨c, _, rfl⟩
    · exact ⟨expanded_response _ s, expanded_pending _ s⟩
    · exact ⟨raiseCommandFault_response c s, raiseCommandFault_pending c s⟩
  | clrerr =>
    obtain rfl := Host.Outcome.next.inj h
    exact ⟨clearCommandFault_response s, clearCommandFault_pending s⟩
  | illegal w =>
    obtain rfl := Host.Outcome.next.inj h
    exact ⟨raiseCommandFault_response _ s, raiseCommandFault_pending _ s⟩

/-- Settles O11: a write of `CMD` runs the command its word selects (R67). -/
theorem commandWriteIsAnsweredOk : Obligations.CommandWriteIsAnsweredOk := by
  intro s t w rest hp h
  rw [step_of_decode_ok hp (decode_commandWrite w)] at h
  exact exec_command_answers_ok h

/-- An operation that goes on and is answered `error` has changed nothing but the response (60_exceptions R190). -/
theorem exec_next_of_error {i : Instr} {s t : State} {r : AccessFault} (h : exec i s = .next t)
    (herror : t.response = some (.error r)) : t = refuseAccess r s := by
  rcases exec_next_cases h with ⟨r', rfl⟩ | ⟨c, rfl⟩ | ⟨rfl, _⟩ | ⟨n, v, s', _, _, rfl⟩ | ⟨rfl, _⟩ | ⟨rfl, _⟩ |
    ⟨j, b, _, rfl⟩
  · obtain rfl := Option.some.inj herror
    rfl
  · cases herror
  · cases herror
  · cases herror
  · rw [calcscaleWith_eq _ _ s (by decide)] at herror
    cases herror
  · cases herror
  · cases herror

/-- Settles O21: refused by the operation or by the decoder, the transaction is only answered (R190). -/
theorem accessFaultsChangeNothing : Obligations.AccessFaultsChangeNothing := by
  refine ⟨fun s t tr rest r hp h herror => ?_, fun s tr rest r => step_of_decode_refused⟩
  cases hd : decode tr with
  | ok i =>
    rw [step_of_decode_ok hp hd] at h
    exact exec_next_of_error h herror
  | refused r' =>
    rw [step_of_decode_refused hp hd] at h
    obtain rfl := Host.Outcome.next.inj h
    obtain rfl : r' = r := Response.error.inj (Option.some.inj herror)
    rfl

end Sys2Proof.Machine
end

section
/-! PROOFS. The first operations after a reset (spec/70_reset_and_hazards.md, R212), the writes of a register and the
reads of a pixel word (spec/20_memory.md, R67, R70). -/

namespace Sys2Proof.Machine

open Sys2Proof.Safety

/-! ## Reads and writes -/

theorem exec_rdreg (n : Reg) (s : State) :
    exec (.rdreg n) s = .next (s.respond (.okWord (readRegister Config.params n s))) := rfl

/-- A write of a register that the host may write (R67). -/
theorem exec_wrreg_of_store {n : Reg} {v : Word} {s s' : State} (h : storeRegister n v s = some s') :
    exec (.wrreg n v) s = .next (s'.respond .ok) := by
  rcases execWrreg_cases n v s with ⟨rfl, _⟩ | ⟨s'', hs, hx⟩ | ⟨_, hnone, _⟩
  · cases h
  · obtain rfl := Option.some.inj (hs.symm.trans h)
    exact hx
  · cases hnone.symm.trans h

/-- A write of a read-only register (R67). -/
theorem exec_wrreg_of_no_store {n : Reg} {v : Word} {s : State} (hn : n ≠ .cmd) (h : storeRegister n v s = none) :
    exec (.wrreg n v) s = .next (refuseAccess .readOnly s) := by
  rcases execWrreg_cases n v s with ⟨hcmd, _⟩ | ⟨s', hs, _⟩ | ⟨_, _, hx⟩
  · exact absurd hcmd hn
  · cases hs.symm.trans h
  · exact hx

theorem exec_rdpix_of_word {k : Nat} {w : Word} {s : State} (hk : k < s.pixLen.toNat) (hw : s.pixbuf[k]? = some w) :
    exec (.rdpix k) s = .next (s.respond (.okWord w)) := by
  rcases execRdpix_cases k s with ⟨w', _, hw', hx⟩ | ⟨hout | hnone, _⟩
  · obtain rfl := Option.some.inj (hw.symm.trans hw')
    exact hx
  · omega
  · cases hw.symm.trans hnone

theorem exec_rdpix_of_ge {k : Nat} {s : State} (hk : s.pixLen.toNat ≤ k) :
    exec (.rdpix k) s = .next (refuseAccess .pixRange s) := by
  rcases execRdpix_cases k s with ⟨_, hlt, _⟩ | ⟨_, hx⟩
  · omega
  · exact hx

theorem exec_rdframe_of_none {i : Byte} {s : State} (h : s.frame.read i.toNat = none) :
    exec (.rdframe i) s = .fault .unwrittenFrame := by
  rcases execRdframe_cases i s with ⟨b, hb, _⟩ | ⟨_, hx⟩
  · cases h.symm.trans hb
  · exact hx

/-- Settles O7, register by register; what `CMD` runs is command decode as a choice among whole words. -/
theorem wrregStoresOrRunsACommand : Obligations.WrregStoresOrRunsACommand := by
  intro v s
  refine ⟨exec_wrreg_of_store (s' := { s with winW := v }) rfl, exec_wrreg_of_store (s' := { s with winH := v }) rfl,
    exec_wrreg_of_store (s' := { s with scale := v }) rfl, exec_wrreg_of_store (s' := { s with colorOff := v }) rfl,
    exec_wrreg_of_store (s' := { s with colorOn := v }) rfl, fun n hn => ?readOnly, ?command, fun _ => rfl⟩
  case readOnly =>
    simp only [List.mem_cons, List.not_mem_nil, or_false] at hn
    rcases hn with rfl | rfl | rfl | rfl | rfl | rfl | rfl | rfl <;> exact exec_wrreg_of_no_store (by decide) rfl
  case command =>
    rw [exec_wrreg_cmd, executeCommand_eq_exec, commandOf_spec]
    split_ifs <;> rfl

/-- Settles O22: in a legal geometry the buffer has a word at every index below `PIX_LEN` (R70). -/
theorem rdpixAnswersTheWord : Obligations.RdpixAnswersTheWord := by
  rintro k s ⟨g, _, _, _, _, hlength⟩
  refine ⟨fun hk => ?_, exec_rdpix_of_ge⟩
  have hword := List.getElem?_eq_getElem (hlength.symm ▸ hk : k < s.pixbuf.length)
  exact ⟨_, hword, exec_rdpix_of_word hk hword⟩

/-! ## After reset -/

/-- Settles O3, operation by operation. -/
theorem firstOperationsAfterReset : Obligations.FirstOperationsAfterReset := by
  refine ⟨fun n => exec_rdreg n _, fun k => exec_rdpix_of_ge (Nat.zero_le k), ?expand, ?calcscale, ?clrerr,
    fun i => exec_rdframe_of_none (Memory.read_nil _)⟩
  case expand => exact exec_expand_of_checkScale (checkScale_of_eq_zero rfl)
  case calcscale =>
    rw [exec_calcscale, calcscaleWith_eq _ _ _ (by decide)]
    rfl
  case clrerr => exact exec_clrerr _

end Sys2Proof.Machine
end

section
/-! PROOFS. Faults and stops (spec/60_exceptions.md): what changes the error record (R181, R186), a fault while `ERR` is
1 (R193), and where the model stops (R184, R192). -/

namespace Sys2Proof.Machine

/-! ## The two names of a command -/

/-- The operation `i` runs the command `c`: by name, or by a write of `CMD` (30_encoding R90). -/
def Runs (i : Instr) (c : Command) : Prop := i = c.instr ∨ ∃ w, i = .wrreg .cmd w ∧ commandOf w = c

section
variable {i : Instr} {c : Command} {s t : State} {w : Word}

theorem exec_eq_of_runs (h : Runs i c) (s : State) : exec i s = exec c.instr s := by
  rcases h with rfl | ⟨w, rfl, rfl⟩
  · rfl
  · rw [exec_wrreg_cmd, executeCommand_eq_exec]

theorem runs_of_mem (hc : commandOf w = c) (hi : i ∈ [c.instr, .wrreg .cmd w]) : Runs i c := by
  rcases List.mem_pair.1 hi with rfl | rfl
  · exact .inl rfl
  · exact .inr ⟨w, rfl, hc⟩

/-- A command comes from one word only, the one its encoding writes (30_encoding R94). -/
theorem eq_wdata_of_commandOf (h : commandOf w = c) : w = (encode c.instr).wdata := by
  rw [← h, (encode_commandOf w).2]
  rfl

theorem runs_cases (h : Runs i c) : i = c.instr ∨ i = .wrreg .cmd (encode c.instr).wdata := by
  refine h.imp_right ?_
  rintro ⟨w, rfl, hc⟩
  rw [← eq_wdata_of_commandOf hc]

/-- A word that selects no command is none of the three words that do (30_encoding R95). -/
theorem runs_illegal (h : Runs i (.illegal w)) :
    i = .cmdwordReserved w ∨ (i = .wrreg .cmd w ∧ w ≠ 1#32 ∧ w ≠ 2#32 ∧ w ≠ 3#32) := by
  refine h.imp_right ?_
  rintro ⟨v, rfl, hc⟩
  obtain rfl : v = w := eq_wdata_of_commandOf hc
  have hwf := (encode_commandOf v).1
  rw [hc] at hwf
  exact ⟨rfl, (cmdwordReserved_wellFormed_iff v).1 hwf⟩

/-! ## What changes the error record -/

/-- An operation that goes on runs a command or leaves the error record alone. -/
theorem exec_next_runs_or_keeps (h : exec i s = .next t) :
    (∃ c, Runs i c ∧ exec c.instr s = .next t) ∨ (t.status = s.status ∧ t.cause = s.cause) := by
  cases i with
  | calcscale => exact .inl ⟨.calcscale, .inl rfl, h⟩
  | expand => exact .inl ⟨.expand, .inl rfl, h⟩
  | clrerr => exact .inl ⟨.clrerr, .inl rfl, h⟩
  | cmdwordReserved w => exact .inl ⟨.illegal w, .inl rfl, h⟩
  | rdreg n =>
    obtain rfl := Host.Outcome.next.inj h
    exact .inr ⟨rfl, rfl⟩
  | wrreg n v =>
    rcases execWrreg_cases n v s with ⟨rfl, _⟩ | ⟨s', hs, hx⟩ | ⟨_, _, hx⟩
    · have hruns : Runs (.wrreg .cmd v) (commandOf v) := .inr ⟨v, rfl, rfl⟩
      exact .inl ⟨_, hruns, (exec_eq_of_runs hruns s).symm.trans h⟩
    · obtain ⟨hstatus, hcause, _⟩ := storeRegister_keeps hs
      obtain rfl := Host.Outcome.next.inj (hx.symm.trans h)
      exact .inr ⟨hstatus, hcause⟩
    · obtain rfl := Host.Outcome.next.inj (hx.symm.trans h)
      exact .inr ⟨rfl, rfl⟩
  | rdframe j =>
    rcases execRdframe_cases j s with ⟨b, _, hx⟩ | ⟨_, hx⟩
    · obtain rfl := Host.Outcome.next.inj (hx.symm.trans h)
      exact .inr ⟨rfl, rfl⟩
    · cases hx.symm.trans h
  | wrframe j b =>
    obtain rfl := Host.Outcome.next.inj h
    exact .inr ⟨rfl, rfl⟩
  | rdpix k =>
    rcases execRdpix_cases k s with ⟨w, _, _, hx⟩ | ⟨_, hx⟩ <;>
      (obtain rfl := Host.Outcome.next.inj (hx.symm.trans h); exact .inr ⟨rfl, rfl⟩)

/-- What a command does to the error record: the faults of R181 by the command that raises them, and `CLRERR`. -/
theorem exec_command_errorRecord (h : exec c.instr s = .next t) :
    (t.status = s.status ∧ t.cause = s.cause) ∨ (c = .clrerr ∧ t = clearCommandFault s) ∨
      (c = .expand ∧ s.scale.toNat = 0 ∧ t = raiseCommandFault .scaleZero s) ∨
      (c = .expand ∧ s.scale.toNat > Config.params.maxScale ∧ t = raiseCommandFault .scaleTooLarge s) ∨
      ∃ w, c = .illegal w ∧ t = raiseCommandFault .illegalCommand s := by
  cases c with
  | calcscale =>
    rw [Command.instr, exec_calcscale, calcscaleWith_eq _ _ s (by decide)] at h
    obtain rfl := Host.Outcome.next.inj h
    exact .inl ⟨rfl, rfl⟩
  | expand =>
    rcases exec_expand_next_cases h with ⟨_, rfl⟩ | ⟨f, hf, rfl⟩
    · exact .inl ⟨expanded_status _ s, expanded_cause _ s⟩
    · rcases checkScale_eq_some hf with ⟨rfl, hzero⟩ | ⟨rfl, hlarge⟩
      · exact .inr (.inr (.inl ⟨rfl, hzero, rfl⟩))
      · exact .inr (.inr (.inr (.inl ⟨rfl, hlarge, rfl⟩)))
  | clrerr => exact .inr (.inl ⟨rfl, (Host.Outcome.next.inj h).symm⟩)
  | illegal w => exact .inr (.inr (.inr (.inr ⟨w, rfl, (Host.Outcome.next.inj h).symm⟩)))

end

/-- Settles O9: a changed error record leaves the commands only, and of these the ones that fault or clear (R181,
R186). -/
theorem errorRecordChangesOnlyByFaultsAndClrerr : Obligations.ErrorRecordChangesOnlyByFaultsAndClrerr := by
  intro i s t h hchange
  have hnot : ¬ (t.status = s.status ∧ t.cause = s.cause) := fun ⟨hstatus, hcause⟩ =>
    hchange.elim (fun hne => hne hstatus) (fun hne => hne hcause)
  obtain ⟨c, hruns, hc⟩ := (exec_next_runs_or_keeps h).resolve_right hnot
  rcases (exec_command_errorRecord hc).resolve_left hnot with ⟨rfl, rfl⟩ | ⟨rfl, hzero, rfl⟩ | ⟨rfl, hlarge, rfl⟩ |
    ⟨w, rfl, rfl⟩
  · exact .inl ⟨rfl, runs_cases hruns⟩
  · exact .inr (.inl ⟨rfl, BitVec.eq_of_toNat_eq hzero, runs_cases hruns⟩)
  · exact .inr (.inr (.inl ⟨rfl, hlarge, runs_cases hruns⟩))
  · exact .inr (.inr (.inr ⟨rfl, w, runs_illegal hruns⟩))

/-! ## A fault while `ERR` is 1 -/

/-- Of two command faults in a row no trace of the first stays (R193). -/
theorem raiseCommandFault_raiseCommandFault (c c' : CommandFault) (s : State) :
    raiseCommandFault c' (raiseCommandFault c s) = raiseCommandFault c' s := by
  have hset : setErr (setErr s.status) = setErr s.status := setErr_of_err (raiseCommandFault_err c s)
  simp only [raiseCommandFault, hset]

/-- Settles O10: each fault by `raiseCommandFault_of_err`, and two in a row by the law above (R193). -/
theorem laterFaultOverwritesTheCause : Obligations.LaterFaultOverwritesTheCause := by
  refine ⟨fun s herr => ⟨fun srcW srcH h => ?dimensions, fun h i hi => ?zero, fun h i hi => ?large,
    fun w h1 h2 h3 i hi => ?reserved⟩, fun s t w hlarge h h1 h2 h3 => ?twice⟩
  case dimensions => rw [calcscaleWith_eq_fault srcW srcH s h, raiseCommandFault_of_err _ herr]; rfl
  case zero =>
    rw [exec_eq_of_runs (c := .expand) (runs_of_mem rfl hi), Command.instr,
      exec_expand_of_checkScale (checkScale_of_eq_zero h), raiseCommandFault_of_err _ herr]
    rfl
  case large =>
    rw [exec_eq_of_runs (c := .expand) (runs_of_mem rfl hi), Command.instr,
      exec_expand_of_checkScale (checkScale_of_gt h), raiseCommandFault_of_err _ herr]
    rfl
  case reserved =>
    rw [exec_eq_of_runs (c := .illegal w) (runs_of_mem (commandOf_of_reserved h1 h2 h3) hi), Command.instr,
      exec_cmdwordReserved, raiseCommandFault_of_err _ herr]
    rfl
  case twice =>
    rw [exec_expand_of_checkScale (checkScale_of_gt hlarge)] at h
    obtain rfl := Host.Outcome.next.inj h
    refine ⟨raiseCommandFault_err _ s, rfl, ?_⟩
    rw [exec_cmdwordReserved, raiseCommandFault_raiseCommandFault]
    rfl

/-! ## Where the model stops -/

/-- `EXPAND` would read a frame byte that nothing has written: the scale is legal and the frame is not whole (R192). -/
def ExpandStops (s : State) : Prop :=
  1 ≤ s.scale.toNat ∧ s.scale.toNat ≤ Config.params.maxScale ∧ ∃ j, j < 256 ∧ s.frame.read j = none

/-- The operation reads a frame byte that nothing has written (R184). -/
def Stops (i : Instr) (s : State) : Prop :=
  (∃ j : Byte, i = .rdframe j ∧ s.frame.read j.toNat = none) ∨ ((i = .expand ∨ i = .wrreg .cmd 2#32) ∧ ExpandStops s)

/-- A frame is not whole when some byte is unwritten. -/
theorem Memory.whole_eq_false_iff (m : Memory) : m.whole = false ↔ ∃ j, j < 256 ∧ m.read j = none := by
  rw [← Bool.not_eq_true, Memory.whole_iff]
  simp only [← Option.isSome_iff_exists, not_forall, Bool.not_eq_true, Option.isSome_eq_false_iff,
    Option.isNone_iff_eq_none, exists_prop]
  rfl

theorem exec_expand_stops_or_next (s : State) :
    (ExpandStops s ∧ exec .expand s = .fault .unwrittenFrame) ∨ (¬ ExpandStops s ∧ ∃ t, exec .expand s = .next t) := by
  rcases expandWith_cases Config.params s with ⟨c, hc, hx⟩ | ⟨_, hwhole, hx⟩ | ⟨hnone, hwhole, hx⟩
  · refine .inr ⟨fun ⟨hlo, hhi, _⟩ => ?_, _, hx⟩
    cases hc.symm.trans ((checkScale_eq_none _ _).2 ⟨hlo, hhi⟩)
  · refine .inr ⟨fun ⟨_, _, hunwritten⟩ => ?_, _, hx⟩
    cases hwhole.symm.trans ((Memory.whole_eq_false_iff s.frame).2 hunwritten)
  · obtain ⟨hlo, hhi⟩ := (checkScale_eq_none _ _).1 hnone
    exact .inl ⟨⟨hlo, hhi, (Memory.whole_eq_false_iff s.frame).1 hwhole⟩, hx⟩

/-- The operations that read no frame byte never stop. -/
theorem not_stops {i : Instr} (s : State) (hread : ∀ j, i ≠ .rdframe j) (hname : i ≠ .expand)
    (hword : i ≠ .wrreg .cmd 2#32) : ¬ Stops i s := by
  rintro (⟨j, hi, _⟩ | ⟨hi | hi, _⟩)
  · exact hread j hi
  · exact hname hi
  · exact hword hi

theorem stops_expand_iff (s : State) : Stops .expand s ↔ ExpandStops s := by simp [Stops]

theorem stops_wrreg_two_iff (s : State) : Stops (.wrreg .cmd 2#32) s ↔ ExpandStops s := by simp [Stops]

theorem stops_rdframe_iff (j : Byte) (s : State) : Stops (.rdframe j) s ↔ s.frame.read j.toNat = none := by
  simp [Stops]

/-- Every operation stops with `UnwrittenFrame` or goes on. -/
theorem exec_stops_or_next (i : Instr) (s : State) :
    (Stops i s ∧ exec i s = .fault .unwrittenFrame) ∨ (¬ Stops i s ∧ ∃ t, exec i s = .next t) := by
  cases i with
  | expand => rw [stops_expand_iff]; exact exec_expand_stops_or_next s
  | rdframe j =>
    rw [stops_rdframe_iff]
    rcases execRdframe_cases j s with ⟨b, hb, hx⟩ | ⟨hnone, hx⟩
    · exact .inr ⟨fun hnone => (nomatch hb.symm.trans hnone), _, hx⟩
    · exact .inl ⟨hnone, hx⟩
  | wrreg n v =>
    rcases execWrreg_cases n v s with ⟨rfl, _⟩ | ⟨s', hs, hx⟩ | ⟨hn, _, hx⟩
    · rw [exec_wrreg_cmd]
      rcases executeCommand_cases v s with ⟨rfl, hc⟩ | ⟨rfl, hc⟩ | ⟨rfl, hc⟩ | ⟨_, h2, _, hc⟩ <;> rw [hc]
      · exact .inr ⟨not_stops s (by simp) (by simp) (by simp), _, rfl⟩
      · rw [stops_wrreg_two_iff]; exact exec_expand_stops_or_next s
      · exact .inr ⟨not_stops s (by simp) (by simp) (by simp), _, rfl⟩
      · exact .inr ⟨not_stops s (by simp) (by simp) (by simp [h2]), _, rfl⟩
    · have hn : n ≠ .cmd := by rintro rfl; cases hs
      exact .inr ⟨not_stops s (by simp) (by simp) (by simp [hn]), _, hx⟩
    · exact .inr ⟨not_stops s (by simp) (by simp) (by simp [hn]), _, hx⟩
  | rdpix k =>
    have hgo : ∃ t, exec (.rdpix k) s = .next t := by
      rcases execRdpix_cases k s with ⟨_, _, _, hx⟩ | ⟨_, hx⟩ <;> exact ⟨_, hx⟩
    exact .inr ⟨not_stops s (by simp) (by simp) (by simp), hgo⟩
  | _ => exact .inr ⟨not_stops s (by simp) (by simp) (by simp), _, rfl⟩

/-- Settles O15: what stops does so with `UnwrittenFrame`, and what goes on neither faults nor is refused. -/
theorem stopsOnlyOnAnUnwrittenFrame : Obligations.StopsOnlyOnAnUnwrittenFrame := by
  intro i s
  rcases exec_stops_or_next i s with ⟨hstops, hx⟩ | ⟨hnot, t, hx⟩ <;> rw [hx]
  · refine ⟨fun f => ⟨fun hf => ⟨(Host.Outcome.fault.inj hf).symm, hstops⟩, ?_⟩, fun _ hr => nomatch hr⟩
    rintro ⟨rfl, _⟩
    rfl
  · exact ⟨fun f => ⟨fun hf => (nomatch hf), fun ⟨_, hstops⟩ => absurd hstops hnot⟩, fun _ hr => nomatch hr⟩

end Sys2Proof.Machine
end

section
/-! PROOFS. What every step keeps (spec/10_state.md): the pixel buffer and its geometry (R32, R34, R44), the error
record (R24, R25) and the canonical form of the frame store (R31). -/

namespace Sys2Proof.Machine

open Sys2Proof.Safety

/-! ## The pixel buffer -/

/-- From `s` to `t` the pixel buffer and its geometry are as before. -/
def KeepsPixels (s t : State) : Prop :=
  t.pixbuf = s.pixbuf ∧ t.outW = s.outW ∧ t.outH = s.outH ∧ t.pixLen = s.pixLen

/-- An operation that goes on keeps the pixel buffer or is an `EXPAND` in a ready state. -/
theorem exec_next_pixels {i : Instr} {s t : State} (h : exec i s = .next t) :
    KeepsPixels s t ∨
      (ReadyToExpand s ∧ (i = .expand ∨ i = .wrreg .cmd 2#32) ∧ t = expanded s.scale.toNat s) := by
  rcases exec_next_cases h with ⟨r, rfl⟩ | ⟨c, rfl⟩ | ⟨rfl, _⟩ | ⟨n, v, s', hs, _, rfl⟩ | ⟨rfl, _⟩ |
    ⟨ht, hi, hscale, hwhole⟩ | ⟨j, b, _, rfl⟩
  · exact .inl ⟨rfl, rfl, rfl, rfl⟩
  · exact .inl ⟨rfl, rfl, rfl, rfl⟩
  · exact .inl ⟨rfl, rfl, rfl, rfl⟩
  · obtain ⟨_, _, hpixbuf, _⟩ := storeRegister_spec hs
    obtain ⟨_, _, hgeometry⟩ := storeRegister_keeps hs
    exact .inl ⟨hpixbuf, hgeometry⟩
  · rw [calcscaleWith_eq _ _ s (by decide)]
    exact .inl ⟨rfl, rfl, rfl, rfl⟩
  · exact .inr ⟨readyToExpand_iff.2 ⟨hwhole, hscale⟩, hi, ht⟩
  · exact .inl ⟨rfl, rfl, rfl, rfl⟩

/-- Settles O23: of the four kinds of step only a reset and an operation touch the buffer, and the decoder gives
`EXPAND` its one name. -/
theorem pixelBufferChangesOnlyByExpandAndReset : Obligations.PixelBufferChangesOnlyByExpandAndReset := by
  intro s t h
  rcases step_cases h with ⟨_, rfl⟩ | ⟨rest, hp, _⟩ | ⟨tr, rest, i, hp, hd, hx⟩ | ⟨tr, rest, r, _, _, rfl⟩
  · exact .inl ⟨rfl, rfl, rfl, rfl⟩
  · exact .inr (.inl ⟨rest, hp⟩)
  · rcases exec_next_pixels hx with hkeeps | ⟨hready, rfl | rfl, _⟩
    · exact .inl hkeeps
    · exact .inr (.inr ⟨hready, tr, rest, hp, hd⟩)
    · exact absurd hd (decode_ne_wrreg_cmd tr 2#32)
  · exact .inl ⟨rfl, rfl, rfl, rfl⟩

/-! ## The geometry -/

theorem geometryLegal_of_keepsPixels {s t : State} (hs : GeometryLegal s) (h : KeepsPixels s t) : GeometryLegal t := by
  obtain ⟨hpixbuf, houtW, houtH, hpixLen⟩ := h
  rwa [GeometryLegal, hpixbuf, houtW, houtH, hpixLen]

/-- The dimensions of the picture fit 32 bits (00_scope R8). -/
theorem expanded_dimensions {s : State} (h : ReadyToExpand s) :
    (expanded s.scale.toNat s).outW.toNat = 64 * s.scale.toNat ∧
      (expanded s.scale.toNat s).outH.toNat = 32 * s.scale.toNat := by
  obtain ⟨_, _, hhi⟩ := h
  have hmax := hhi.trans Config.params.maxScale_bounds.2
  rw [expanded_outW, expanded_outH, BitVec.toNat_ofNat, BitVec.toNat_ofNat, Config.srcW, Config.srcH]
  omega

theorem expanded_pixLen_toNat {s : State} (h : ReadyToExpand s) :
    (expanded s.scale.toNat s).pixLen.toNat = s.scale.toNat ^ 2 * 64 * 32 := by
  rw [expanded_pixLen, scan_words_eq, BitVec.toNat_ofNat, Nat.mod_eq_of_lt (expanded_words_lt h)]

/-- The geometry that a successful `EXPAND` latches describes the buffer it makes (R34). -/
theorem geometryLegal_expanded {s : State} (h : ReadyToExpand s) : GeometryLegal (expanded s.scale.toNat s) := by
  obtain ⟨houtW, houtH⟩ := expanded_dimensions h
  refine ⟨s.scale.toNat, h.2.2, houtW, houtH, ?_, ?_⟩
  · rw [expanded_pixLen_toNat h, houtW, houtH]
    ring
  · rw [expanded_pixLen_toNat h, expanded_pixbuf, length_expandScan, scan_words_eq]

theorem exec_keeps_geometryLegal {i : Instr} {s t : State} (h : exec i s = .next t) (hs : GeometryLegal s) :
    GeometryLegal t := by
  rcases exec_next_pixels h with hkeeps | ⟨hready, _, rfl⟩
  · exact geometryLegal_of_keepsPixels hs hkeeps
  · exact geometryLegal_expanded hready

/-! ## The error record -/

theorem errorRecordLegal_status {s : State} (h : ErrorRecordLegal s) : s.status = 0#32 ∨ s.status = 1#32 :=
  h.imp And.left And.left

theorem CommandFault.code_cases (c : CommandFault) :
    c.code = 1#32 ∨ c.code = 2#32 ∨ c.code = 3#32 ∨ c.code = 4#32 := by
  cases c <;> simp [CommandFault.code]

theorem exec_keeps_errorRecordLegal {i : Instr} {s t : State} (h : exec i s = .next t) (hs : ErrorRecordLegal s) :
    ErrorRecordLegal t := by
  rcases exec_next_errorRecord h with ⟨hstatus, hcause⟩ | ⟨c, rfl⟩ | ⟨rfl, _⟩
  · rwa [ErrorRecordLegal, hstatus, hcause]
  · exact .inr ⟨setErr_legal _ (errorRecordLegal_status hs), c.code_cases⟩
  · exact .inl ⟨clearErr_legal _ (errorRecordLegal_status hs), rfl⟩

/-! ## The frame store -/

theorem exec_keeps_frame_wf {i : Instr} {s t : State} (h : exec i s = .next t) (hs : s.frame.wf = true) :
    t.frame.wf = true := by
  rcases exec_next_frame h with hframe | ⟨j, b, rfl⟩
  · rwa [hframe]
  · rw [exec_wrframe] at h
    obtain rfl := Host.Outcome.next.inj h
    exact Memory.write_wf s.frame j.toNat b j.isLt hs

/-! ## Legal states -/

/-- Settles O38: the picture after reset is the empty one, of scale 0. -/
theorem resetStateIsLegal : Obligations.ResetStateIsLegal :=
  ⟨.inl ⟨State_reset_status, State_reset_cause⟩, ⟨0, Nat.zero_le _, rfl, rfl, rfl, rfl⟩, Memory.wf_nil⟩

theorem exec_keeps_legal {i : Instr} {s t : State} (h : exec i s = .next t) (hs : Legal s) : Legal t := by
  obtain ⟨hrecord, hgeometry, hframe⟩ := hs
  exact ⟨exec_keeps_errorRecordLegal h hrecord, exec_keeps_geometryLegal h hgeometry, exec_keeps_frame_wf h hframe⟩

/-- Settles O39, by the kind of step: no field that `Legal` speaks of is the run's or the response. -/
theorem everyStepKeepsLegality : Obligations.EveryStepKeepsLegality := by
  intro s t hs h
  rcases step_cases h with ⟨_, rfl⟩ | ⟨rest, _, rfl⟩ | ⟨tr, rest, i, _, _, hx⟩ | ⟨tr, rest, r, _, _, rfl⟩
  · exact hs
  · exact resetStateIsLegal
  · exact exec_keeps_legal hx hs
  · exact hs

end Sys2Proof.Machine
end

section
/-! PROOFS. The laws of the expansion (spec/41_expander.md, R150) and when the picture has the window's shape
(spec/70_reset_and_hazards.md, R225). -/

namespace Sys2Proof.Machine

open Sys2Proof.Safety

/-! ## Uniform frames -/

/-- Every word of the scan shows one bit of the frame (41 R143, R144). -/
theorem exists_bit_of_mem_expandScan {m : Memory} {off on w : Word} {k : Nat} (h : w ∈ expandScan m off on k) :
    ∃ i j, i < 256 ∧ j < 8 ∧ w = palette off on ((frameByte m i).getLsbD j) := by
  obtain ⟨sy, hsy, hrow⟩ := List.mem_flatMap.1 h
  obtain ⟨row, hcopy, hw⟩ := List.mem_flatten.1 hrow
  obtain rfl := List.eq_of_mem_replicate hcopy
  obtain ⟨bx, hbx, hbyte⟩ := List.mem_flatMap.1 hw
  obtain ⟨j, _, hpixel⟩ := List.mem_flatMap.1 hbyte
  have hsy' : sy < 32 := List.mem_range.1 hsy
  have hbx' : bx < 8 := List.mem_range.1 hbx
  exact ⟨sy * 8 + bx, 7 - j, by omega, by omega, List.eq_of_mem_replicate hpixel⟩

/-- A frame that holds one byte everywhere is scanned to words of that byte's bits. -/
theorem exists_bit_of_mem_expandScan_uniform {m : Memory} {off on w : Word} {k : Nat} {c : Byte}
    (hm : ∀ i, i < 256 → m.read i = some c) (h : w ∈ expandScan m off on k) :
    ∃ j, j < 8 ∧ w = palette off on (c.getLsbD j) := by
  obtain ⟨i, j, hi, hj, rfl⟩ := exists_bit_of_mem_expandScan h
  exact ⟨j, hj, by rw [frameByte, hm i hi, Option.getD_some]⟩

theorem getLsbD_ones_byte : ∀ j, j < 8 → (0xff#8).getLsbD j = true := by decide

/-- Settles O31: a byte of 0x00 has no 1 bit and a byte of 0xFF no 0 bit (R150 (a), (b)). -/
theorem uniformFramesGiveOneColour : Obligations.UniformFramesGiveOneColour := by
  intro s t hready h
  obtain rfl := exec_expand_next_of_ready hready h
  refine ⟨fun hblank w hw => ?blank, fun hfull w hw => ?full⟩
  case blank =>
    obtain ⟨j, _, rfl⟩ := exists_bit_of_mem_expandScan_uniform hblank hw
    rw [BitVec.getLsbD_zero]
    rfl
  case full =>
    obtain ⟨j, hj, rfl⟩ := exists_bit_of_mem_expandScan_uniform hfull hw
    rw [getLsbD_ones_byte j hj]
    rfl

/-! ## Scaling -/

/-- Settles O32: both words show the source pixel `(X div k, Y div k)`, which at scale 1 is its own output pixel
(R150 (d)). -/
theorem scalingIsConsistent : Obligations.ScalingIsConsistent := by
  refine ⟨?_, fun _ => rfl⟩
  rintro P s t t1 k X Y rfl ⟨hframe, hlo, hhi⟩ ht ht1 hX hY
  obtain rfl := expandWith_next_of_legal_scale hlo hhi ht
  obtain rfl := expandWith_next_of_legal_scale (s := { s with scale := 1#32 }) le_rfl P.maxScale_bounds.1 ht1
  obtain ⟨hlt, _⟩ := sourceByteIndex_spec hX hY
  obtain ⟨b, hb⟩ := hframe _ hlt
  have hX1 : X / s.scale.toNat < 64 * 1 := Nat.div_lt_of_lt_mul (by rw [Nat.mul_comm]; simpa using hX)
  have hY1 : Y / s.scale.toNat < 32 * 1 := Nat.div_lt_of_lt_mul (by rw [Nat.mul_comm]; simpa using hY)
  have hword := expandScan_pixel s.frame s.colorOff s.colorOn hX hY hb
  have hword1 := expandScan_pixel s.frame s.colorOff s.colorOn hX1 hY1 (by rwa [Nat.div_one, Nat.div_one])
  rw [Nat.div_one, Nat.mul_one] at hword1
  exact ⟨hword.trans hword1.symm, Option.isSome_of_eq_some hword1⟩

/-! ## Counting the ON words -/

/-- The number of 1 bits of a byte. -/
def bitCount (b : Byte) : Nat := (List.range 8).countP fun j => b.getLsbD j

/-- Runs of one length: each element counts `k` times. -/
theorem countP_flatMap_replicate {α β : Type} (p : β → Bool) (f : α → β) (k : Nat) (l : List α) :
    (l.flatMap fun x => List.replicate k (f x)).countP p = k * l.countP fun x => p (f x) := by
  induction l with
  | nil => simp
  | cons x l ih =>
    rw [List.flatMap_cons, List.countP_append, ih, List.countP_replicate, List.countP_cons]
    split <;> ring

/-- The indices below `n × c` are `n` groups of `c`. -/
theorem sum_range_mul (f : Nat → Nat) (n c : Nat) :
    ((List.range (n * c)).map f).sum =
      ((List.range n).map fun q => ((List.range c).map fun r => f (q * c + r)).sum).sum := by
  induction n with
  | zero => simp
  | succ n ih => simp [Nat.succ_mul, List.range_add, List.range_succ, ih, Function.comp_def]

theorem palette_beq_on {off on : Word} (hne : on ≠ off) (b : Bool) : (palette off on b == on) = b := by
  cases b
  · exact beq_false_of_ne hne.symm
  · exact beq_self_eq_true on

section
variable {off on : Word} (hne : on ≠ off) (m : Memory) (k : Nat)
include hne

/-- An expanded byte shows each of its bits in `k` words, in the reverse order (41 R143, R145). -/
theorem countP_expandByte (b : Byte) : (expandByte off on k b).countP (· == on) = k * bitCount b := by
  have hreverse : (List.range 8).reverse = (List.range 8).map (7 - ·) := by decide
  rw [bitCount, ← List.countP_reverse (l := List.range 8), hreverse, List.countP_map, expandByte,
    countP_flatMap_replicate]
  simp only [palette_beq_on hne, Function.comp_def]

theorem countP_expandRow (sy : Nat) :
    (expandRow m off on k sy).countP (· == on) =
      k * ((List.range 8).map fun bx => bitCount (frameByte m (sy * 8 + bx))).sum := by
  rw [expandRow, List.countP_flatMap, ← List.sum_map_mul_left]
  simp only [Function.comp_def, countP_expandByte hne]
  rfl

/-- Each row is there `k` times (41 R146), and the rows' bytes are the frame's. -/
theorem countP_expandScan :
    (expandScan m off on k).countP (· == on) =
      k ^ 2 * ((List.range 256).map fun i => bitCount (frameByte m i)).sum := by
  have hcopies : ∀ sy, (List.replicate k (expandRow m off on k sy)).flatten.countP (· == on) =
      k ^ 2 * ((List.range 8).map fun bx => bitCount (frameByte m (sy * 8 + bx))).sum := by
    intro sy
    rw [List.countP_flatten, List.map_replicate, List.sum_replicate, countP_expandRow hne, smul_eq_mul, sq,
      Nat.mul_assoc]
  rw [expandScan, List.countP_flatMap, show 256 = 32 * 8 from rfl, sum_range_mul, ← List.sum_map_mul_left]
  simp only [Function.comp_def, hcopies]
  rfl

end

/-- Settles O33 (R150 (e)). -/
theorem onWordsCountTheFrameBits : Obligations.OnWordsCountTheFrameBits := by
  intro s t hready hne h
  obtain rfl := exec_expand_next_of_ready hready h
  exact countP_expandScan hne s.frame s.scale.toNat

/-! ## Inputs -/

theorem frameByte_congr {m m' : Memory} {i : Nat} (h : m'.read i = m.read i) : frameByte m' i = frameByte m i := by
  rw [frameByte, frameByte, h]

/-- The scan reads bytes 0 to 255 and nothing else of the frame store. -/
theorem expandScan_congr {m m' : Memory} (h : ∀ i, i < 256 → m'.read i = m.read i) (off on : Word) (k : Nat) :
    expandScan m' off on k = expandScan m off on k := by
  refine List.flatMap_congr fun sy hsy => ?_
  have hrow : expandRow m' off on k sy = expandRow m off on k sy := by
    refine List.flatMap_congr fun bx hbx => ?_
    have hsy' : sy < 32 := List.mem_range.1 hsy
    have hbx' : bx < 8 := List.mem_range.1 hbx
    have hi : sy * Config.bpr + bx < 256 := by simp only [Config.bpr, Config.srcW]; omega
    rw [frameByte_congr (h _ hi)]
  rw [hrow]

/-- Settles O34: the second state is ready too, and its scan reads the same (R150 (f)). -/
theorem expandDependsOnItsInputsOnly : Obligations.ExpandDependsOnItsInputsOnly := by
  intro s s' t hready hframe hscale hoff hon h
  have hready' : ReadyToExpand s' := by
    obtain ⟨hwhole, hlegal⟩ := hready
    exact ⟨fun i hi => by rw [hframe i hi]; exact hwhole i hi, by rwa [hscale]⟩
  obtain rfl := exec_expand_next_of_ready hready h
  refine ⟨_, exec_expand_of_ready hready', ?_, ?_, ?_, ?_⟩
  · rw [expanded_pixbuf, expanded_pixbuf, hscale, hoff, hon, expandScan_congr hframe]
  · rw [expanded_outW, expanded_outW, hscale]
  · rw [expanded_outH, expanded_outH, hscale]
  · rw [expanded_pixLen, expanded_pixLen, hscale]

/-! ## The window -/

/-- The picture has the window's shape when the window is `k` times the source raster, `k` being the scale. -/
theorem picture_eq_window_iff {s t : State} (hready : ReadyToExpand t) :
    ((expanded t.scale.toNat t).outW = s.winW ∧ (expanded t.scale.toNat t).outH = s.winH) ↔
      WindowFits t.scale.toNat s := by
  obtain ⟨houtW, houtH⟩ := expanded_dimensions hready
  rw [← BitVec.toNat_inj, ← BitVec.toNat_inj, houtW, houtH, WindowFits]
  exact and_congr eq_comm eq_comm

/-- The scale of a window of `64 m × 32 m` is `m` (40 R124 item (c)). -/
theorem scale_eq_of_windowFits {s t : State} {m : Nat} (h : exec .calcscale s = .next t) (hm : WindowFits m s) :
    t.scale.toNat = m := by
  obtain ⟨hW, hH⟩ := hm
  exact scale_eq_of_windowArea h (by rw [windowArea, hW, hH]; ring)

/-- Settles O36: the only `m` for which the window can fit is the computed scale (R225). -/
theorem pictureCoversTheWindowExactly : Obligations.PictureCoversTheWindowExactly := by
  intro s t u h hready hu
  obtain rfl := exec_expand_next_of_ready hready hu
  rw [picture_eq_window_iff hready]
  constructor
  · exact fun hfits => ⟨t.scale.toNat, hready.2.1, hfits⟩
  · rintro ⟨m, _, hfits⟩
    rwa [scale_eq_of_windowFits h hfits]

end Sys2Proof.Machine
end

section
/-! PROOFS. The pseudo-operation `LOADFRAME` (spec/30_encoding.md, R99). -/

namespace Sys2Proof.Machine

/-! ## The frame store after the writes -/

/-- The frame store after the bytes are written one after the other, from index `i` on. -/
def Memory.load : Memory → Nat → List Byte → Memory
  | m, _, [] => m
  | m, i, b :: bs => Memory.load (m.write i b) (i + 1) bs

/-- Everything the writes do to what can be read. -/
theorem Memory.read_load (m : Memory) (i : Nat) (bs : List Byte) (j : Nat) :
    (m.load i bs).read j = if i ≤ j ∧ j < i + bs.length then bs[j - i]? else m.read j := by
  induction bs generalizing m i with
  | nil => rw [if_neg (by simp), Memory.load]
  | cons b bs ih =>
    rw [Memory.load, ih, Memory.read_write, List.length_cons]
    rcases lt_trichotomy j i with hlt | rfl | hgt
    · rw [if_neg (by omega), if_neg (by omega), if_neg (by omega)]
    · rw [if_neg (by omega), if_pos rfl, if_pos (by omega), Nat.sub_self, List.getElem?_cons_zero]
    · have hindex : j - i = j - (i + 1) + 1 := by omega
      rw [if_neg (by omega : ¬ j = i), hindex, List.getElem?_cons_succ]
      exact if_congr (by omega) rfl rfl

/-- Writes at positions of FRAME keep the canonical form (10_state R31). -/
theorem Memory.load_wf (m : Memory) (i : Nat) (bs : List Byte) (hi : i + bs.length ≤ 256) (h : m.wf = true) :
    (m.load i bs).wf = true := by
  induction bs generalizing m i with
  | nil => exact h
  | cons b bs ih =>
    rw [List.length_cons] at hi
    have hlt : i < 256 := by omega
    exact ih _ _ (by omega) (Memory.write_wf m i b hlt h)

/-- Byte `i` of a whole frame is at index `i`. -/
theorem Memory.read_load_zero {m : Memory} {bs : List Byte} {i : Nat} (hi : i < bs.length) :
    (m.load 0 bs).read i = bs[i]? := by
  rw [Memory.read_load, if_pos (by omega), Nat.sub_zero]

/-! ## The run of the script -/

/-- A step that goes on is the first of a longer run. -/
theorem run_succ {s t : State} (h : step s = .next t) (k : Nat) :
    Sys2Proof.core.run (k + 1) s = Sys2Proof.core.run k t := by
  have hstep : Sys2Proof.core.step s = .next t := h
  simp only [Host.Core.run, hstep]

/-- One line of the script writes one byte. -/
theorem step_wrframe {s : State} {i : Nat} {b : Byte} {rest : List HostEvent} (hi : i < 256)
    (hp : s.pending = (ScriptLine.op (.wrframe (BitVec.ofNat 8 i) b)).event :: rest) :
    step s = .next { s with frame := s.frame.write i b, pending := rest, response := some .ok } := by
  have hindex : (BitVec.ofNat 8 i).toNat = i := by rw [BitVec.toNat_ofNat, Nat.mod_eq_of_lt hi]
  rw [step_of_decode_ok hp (decode_encode _ rfl), Instr.canonical, exec_wrframe, hindex]
  rfl

/-- The lines for one byte or more, from index `i` on, complete one by one and write those bytes. -/
theorem run_loadFrameFrom {s : State} {i : Nat} {b : Byte} {bs : List Byte} {rest : List HostEvent}
    (hi : i + bs.length < 256) (hp : s.pending = scriptEvents (loadFrameFrom i (b :: bs)) ++ rest) :
    Sys2Proof.core.run (bs.length + 1) s =
      .next { s with frame := s.frame.load i (b :: bs), pending := rest, response := some .ok } := by
  induction bs generalizing s i b with
  | nil => exact run_succ (step_wrframe (by omega) hp) 0
  | cons c bs ih =>
    rw [List.length_cons] at hi
    rw [List.length_cons, run_succ (step_wrframe (by omega) hp)]
    exact ih (by omega) rfl

/-- Settles O37: the script is one write per byte, and the store they leave is `Memory.load` (R99). -/
theorem loadframeDeliversTheFrame : Obligations.LoadframeDeliversTheFrame := by
  intro s bytes rest hlength hp
  have hread : ∀ i, i < 256 → (s.frame.load 0 bytes).read i = bytes[i]? := fun i hi =>
    Memory.read_load_zero (hlength.symm ▸ hi)
  refine ⟨s.frame.load 0 bytes, ?run, hread, ?whole, Memory.load_wf _ _ _ (by omega)⟩
  case run =>
    cases bytes with
    | nil => cases hlength
    | cons b bs =>
      rw [List.length_cons] at hlength
      have hrun := run_loadFrameFrom (by omega) hp
      rwa [hlength] at hrun
  case whole =>
    refine (Memory.whole_iff _).2 fun i hi => ?_
    rw [hread i hi]
    exact ⟨_, List.getElem?_eq_getElem (hlength.symm ▸ hi)⟩

end Sys2Proof.Machine
end
